-- ==== Sys2Proof/Word.lean ====
section
/-! DEFINITION. The word types of the WireS core: a byte, an event word, a command word (spec 00_scope.md R8, R10;
30_encoding.md R70, R80). Bit 0 is the least significant bit of every word. -/

namespace Sys2Proof

/-- A data byte or an address byte: 8 bits (R8). -/
abbrev Byte := BitVec 8

/-- An event word `w[13:0]`, presented by the bus agent (R70). -/
abbrev EventWord := BitVec 14

/-- A command word `c[15:0]`, presented by the application agent (R80). -/
abbrev CommandWord := BitVec 16

/-- An index register: 8 bits unsigned (R22). -/
abbrev Index := BitVec 8

end Sys2Proof
end

