-- ==== Sys2Proof/Syntax.lean ====
section
/-! DEFINITION. The words the agents present, the classes of event words, and the ONE instruction type: a constructor per
row of spec/opcode_table.json. -/

namespace Sys2Proof

/-- What an agent puts on an input of the block: an event word (R70), a command word (R80), or the reset input (R230). -/
inductive PortWord where
  /-- the bus agent presents an event word -/
  | event (w : EventWord)
  /-- the application agent presents a command word -/
  | command (c : CommandWord)
  /-- the reset input is pulsed -/
  | reset
deriving DecidableEq, Repr

/-- The class of an event word (R74, R75). -/
inductive EventClass where
  | error
  | address
  | stop
  | txData
  | rxData
  | none
deriving DecidableEq, Repr

/-- The instructions: event words (40_bus_events.md) and command words (41_app_commands.md). An operand is a field the
rules read; a field that R71, R72 or R82 says is ignored is no operand (log entry 9). -/
inductive Instr where
  /-- `ev.berr`: bus error (R102) -/
  | evBerr
  /-- `ev.coll`: transmit collision with BERR = 0 (R102) -/
  | evColl
  /-- `ev.addr`: address match, with the DIR bit (1 = initiator reads) and the raw byte (R103) -/
  | evAddr (dir : Bool) (d : Byte)
  /-- `ev.addr.cont`: a data-phase word while a 10-bit address is being assembled (R74, R103, R107) -/
  | evAddrCont (dir : Bool) (d : Byte)
  /-- `ev.stop`: stop condition (R113) -/
  | evStop
  /-- `ev.tx`: transmit data phase (R117) -/
  | evTx
  /-- `ev.rx`: receive data phase with the received byte (R119) -/
  | evRx (d : Byte)
  /-- `ev.none`: no flag set (R121) -/
  | evNone
  /-- `enq b`: enqueue one byte (R152) -/
  | enq (b : Byte)
  /-- `enqn n`: header of a burst of n beats (R153, R154) -/
  | enqn (n : Byte)
  /-- `deq`: dequeue one byte (R156) -/
  | deq
  /-- `peek`: read the next byte (R157) -/
  | peek
  /-- `avail`: count the unread bytes (R158) -/
  | avail
  /-- `setcb m`: register callbacks (R159) -/
  | setcb (m : BitVec 4)
  /-- `setie e`: enable or disable event acceptance (R160) -/
  | setie (e : Bool)
  /-- `cbret acc`: return from the outstanding callback (R166) -/
  | cbret (acc : Bool)
  /-- `beat b`: one data beat of an open burst (R154, R162) -/
  | beat (b : Byte)
  /-- reserved opcode 0x0 (R161) -/
  | reserved0
  /-- reserved opcode 0x9 (R161) -/
  | reserved9
  /-- reserved opcode 0xA (R161) -/
  | reservedA
  /-- reserved opcode 0xB (R161) -/
  | reservedB
  /-- reserved opcode 0xC (R161) -/
  | reservedC
  /-- reserved opcode 0xD (R161) -/
  | reservedD
  /-- reserved opcode 0xE (R161) -/
  | reservedE
deriving DecidableEq, Repr

end Sys2Proof
end

