-- ==== Sys2Proof/WellFormed.lean ====
section
/-! DEFINITION. Which instructions can be decoded in which state: the "condition" column of spec/opcode_table.json
(R74). Every operand field admits every value (R73, R82, R85), so the conditions on `extp` are the only checks. -/

namespace Sys2Proof

/-- The port an instruction arrives on: true for the event input, false for the command port (R70, R80). -/
def Instr.isEvent : Instr → Bool
  | .evBerr | .evColl | .evAddr _ _ | .evAddrCont _ _ | .evStop | .evTx | .evRx _ | .evNone => true
  | .enq _ | .enqn _ | .deq | .peek | .avail | .setcb _ | .setie _ | .cbret _ | .beat _ => false
  | .reserved0 | .reserved9 | .reservedA | .reservedB | .reservedC | .reservedD | .reservedE => false

/-- The instruction can be decoded while the state bit is `extp`: `ev.addr.cont` only with `extp = 1`, `ev.tx` and `ev.rx`
only with `extp = 0`, every other instruction always (a canonical `ev.stop` has DIF = 0). -/
def WellFormed (extp : Bool) : Instr → Bool
  | .evAddrCont _ _ => extp
  | .evTx | .evRx _ => !extp
  | .evBerr | .evColl | .evAddr _ _ | .evStop | .evNone => true
  | .enq _ | .enqn _ | .deq | .peek | .avail | .setcb _ | .setie _ | .cbret _ | .beat _ => true
  | .reserved0 | .reserved9 | .reservedA | .reservedB | .reservedC | .reservedD | .reservedE => true

end Sys2Proof
end

