-- ==== Sys2Proof/Decode.lean ====
section
/-! DEFINITION. The decoders of event words (R74) and command words (R81), the encoder, the assembler syntax (R87 to R89),
and the host's `decodeTableWord`. Decoding is total: every 14-bit word is a legal event word (R73), and every 16-bit word
is a command word, a reserved one being an instruction that responds `Ill` (R83). -/

namespace Sys2Proof

/-! ### Fields of an event word (R70) -/

/-- bit 13: bus error -/
def EventWord.berr (w : EventWord) : Bool := w[13]
/-- bit 12: transmit collision -/
def EventWord.coll (w : EventWord) : Bool := w[12]
/-- bit 11: address match -/
def EventWord.am (w : EventWord) : Bool := w[11]
/-- bit 10: stop condition -/
def EventWord.stop (w : EventWord) : Bool := w[10]
/-- bit 9: data-phase interrupt -/
def EventWord.dif (w : EventWord) : Bool := w[9]
/-- bit 8: direction, 1 = initiator reads -/
def EventWord.dir (w : EventWord) : Bool := w[8]
/-- bits 7:0: the byte of the hardware shift register -/
def EventWord.data (w : EventWord) : Byte := w.extractLsb' 0 8

/-! ### Fields of a command word (R80) -/

/-- bits 15:12 -/
def CommandWord.op (c : CommandWord) : BitVec 4 := c.extractLsb' 12 4
/-- bits 11:8 -/
def CommandWord.a (c : CommandWord) : BitVec 4 := c.extractLsb' 8 4
/-- bits 7:0 -/
def CommandWord.d (c : CommandWord) : Byte := c.extractLsb' 0 8

/-! ### Decoding -/

/-- The class of an event word, by priority (R74, R208). -/
def classify (w : EventWord) (extp : Bool) : EventClass :=
  if w.berr || w.coll then .error
  else if w.am then .address
  else if w.dif && extp then .address
  else if w.stop then .stop
  else if w.dif && w.dir then .txData
  else if w.dif then .rxData
  else .none

/-- The instruction of an event word while the state bit is `extp` (R74, R101): the rows of one class are told apart as
the opcode table does, `ev.berr` before `ev.coll` and `ev.addr` before `ev.addr.cont`. -/
def decodeEvent (extp : Bool) (w : EventWord) : Instr :=
  match classify w extp with
  | .error => if w.berr then .evBerr else .evColl
  | .address => if w.am then .evAddr w.dir w.data else .evAddrCont w.dir w.data
  | .stop => .evStop
  | .txData => .evTx
  | .rxData => .evRx w.data
  | .none => .evNone

/-- The instruction of a command word (R81, R85). The last arm is OP = 0xF: `op` has four bits. -/
def decodeCommand (c : CommandWord) : Instr :=
  match c.op.toNat with
  | 0 => .reserved0
  | 1 => .enq c.d
  | 2 => .enqn c.d
  | 3 => .deq
  | 4 => .peek
  | 5 => .avail
  | 6 => .setcb c.a
  | 7 => .setie c.d[0]
  | 8 => .cbret c.d[0]
  | 9 => .reserved9
  | 10 => .reservedA
  | 11 => .reservedB
  | 12 => .reservedC
  | 13 => .reservedD
  | 14 => .reservedE
  | _ => .beat c.d

/-- The instruction a presented word stands for; the reset input is no instruction (R230). -/
def decodePort (extp : Bool) : PortWord → Option Instr
  | .event w => some (decodeEvent extp w)
  | .command c => some (decodeCommand c)
  | .reset => none

/-! ### Encoding -/

/-- An event word from its six high bits BERR, COLL, AM, STOP, DIF, DIR and its DATA byte (R70). -/
def eventWord (flags : BitVec 6) (d : Byte) : EventWord := flags ++ d

/-- A command word from OP, A and D (R80). -/
def commandWord (op a : BitVec 4) (d : Byte) : CommandWord := op ++ a ++ d

/-- The word of an instruction, with every ignored bit 0 (R82; R87, R88). -/
def encode : Instr → PortWord
  | .evBerr => .event (eventWord 0b100000#6 0#8)
  | .evColl => .event (eventWord 0b010000#6 0#8)
  | .evAddr dir d => .event (eventWord (0b00100#5 ++ BitVec.ofBool dir) d)
  | .evAddrCont dir d => .event (eventWord (0b00001#5 ++ BitVec.ofBool dir) d)
  | .evStop => .event (eventWord 0b000100#6 0#8)
  | .evTx => .event (eventWord 0b000011#6 0#8)
  | .evRx d => .event (eventWord 0b000010#6 d)
  | .evNone => .event (eventWord 0b000000#6 0#8)
  | .enq b => .command (commandWord 0x1#4 0#4 b)
  | .enqn n => .command (commandWord 0x2#4 0#4 n)
  | .deq => .command (commandWord 0x3#4 0#4 0#8)
  | .peek => .command (commandWord 0x4#4 0#4 0#8)
  | .avail => .command (commandWord 0x5#4 0#4 0#8)
  | .setcb m => .command (commandWord 0x6#4 m 0#8)
  | .setie e => .command (commandWord 0x7#4 0#4 (0#7 ++ BitVec.ofBool e))
  | .cbret acc => .command (commandWord 0x8#4 0#4 (0#7 ++ BitVec.ofBool acc))
  | .beat b => .command (commandWord 0xF#4 0#4 b)
  | .reserved0 => .command (commandWord 0x0#4 0#4 0#8)
  | .reserved9 => .command (commandWord 0x9#4 0#4 0#8)
  | .reservedA => .command (commandWord 0xA#4 0#4 0#8)
  | .reservedB => .command (commandWord 0xB#4 0#4 0#8)
  | .reservedC => .command (commandWord 0xC#4 0#4 0#8)
  | .reservedD => .command (commandWord 0xD#4 0#4 0#8)
  | .reservedE => .command (commandWord 0xE#4 0#4 0#8)

/-! ### Assembler syntax and pseudo-instructions: a line is the words it presents (R87 to R89) -/

/-- `ev.raw W` -/
def Asm.evRaw (w : EventWord) : PortWord := .event w
/-- `ev.addr D, dir` -/
def Asm.evAddrDir (d : Byte) (dir : Bool) : PortWord := encode (.evAddr dir d)
/-- `ev.addr D`: DIR taken from the R/W bit of D -/
def Asm.evAddr (d : Byte) : PortWord := encode (.evAddr d[0] d)
/-- `ev.rx D` -/
def Asm.evRx (d : Byte) : PortWord := encode (.evRx d)
/-- `ev.addr7 A, r` (`reads` true) and `ev.addr7 A, w` -/
def Asm.evAddr7 (a : BitVec 7) (reads : Bool) : PortWord := Asm.evAddr (a ++ BitVec.ofBool reads)
/-- `ev.addr10 A`: the first byte `0xF0 | (A[9:8] << 1)`, then the second byte as a data event with DIR = 0 -/
def Asm.evAddr10 (a : BitVec 10) : List PortWord :=
  [Asm.evAddr (0b11110#5 ++ a.extractLsb' 8 2 ++ 0#1), Asm.evRx (a.extractLsb' 0 8)]
/-- `enqs b1, …, bn`, with 1 ≤ n ≤ 255 -/
def Asm.enqs (bs : List Byte) : List PortWord :=
  encode (.enqn (BitVec.ofNat 8 bs.length)) :: bs.map (fun b => encode (.beat b))
/-- `accept` -/
def Asm.accept : PortWord := encode (.cbret true)
/-- `reject` -/
def Asm.reject : PortWord := encode (.cbret false)
/-- `ret` -/
def Asm.ret : PortWord := encode (.cbret false)
/-- `crit { … }` -/
def Asm.crit (body : List PortWord) : List PortWord :=
  encode (.setie false) :: body ++ [encode (.setie true)]

/-! ### The host's probe -/

/-- The port on which a word given only by its bits is presented. The opcode table has two formats whose words overlap
(event14 and cmd16), and the number of bits, in whole bytes, is 16 for both. A word of fewer than 16 bits is an event
word; of the 16-bit words, one with OP = 0 and one of the flags AM, STOP and DIF set is an event word; every other 16-bit
word is a command word. DESIGN CHOICE (log entry 10): this is the probe's rule, the machine's two ports never guess. -/
def tablePort (nbits w : Nat) : Option PortWord :=
  if nbits < 16 then
    if w < 2 ^ 14 then some (.event (BitVec.ofNat 14 w)) else none
  else if nbits = 16 ∧ w < 2 ^ 16 then
    if w < 2 ^ 12 ∧ 2 ^ 9 ≤ w then some (.event (BitVec.ofNat 14 w)) else some (.command (BitVec.ofNat 16 w))
  else none

/-- The instruction the decoders read from a word of the opcode table, an event word with `extp = 0` as it is after reset;
none where there is no such word. -/
def decodeTableWord (nbits w : Nat) : Option Instr :=
  (tablePort nbits w).bind (decodePort false)

end Sys2Proof
end

