-- ==== Sys2Proof/Config.lean ====
section
/-! DEFINITION. What one implementation of the WireS core fixes (the buffer capacity) and what the spec leaves free (the
buffer's contents after reset). Neither constant has a body, so no statement can rest on a value of it. -/

namespace Sys2Proof

/-- A buffer capacity `C`, any integer with 1 ≤ C ≤ 255 (R8, R9), held as `C - 1` so that no other value can be written. -/
abbrev Capacity := Fin 255

/-- The capacity in bytes, `C`. -/
def Capacity.bytes (c : Capacity) : Nat := c.val + 1

/-- The capacity of the machine at reset. The spec leaves it OPEN (92_eei_decisions.md D2), so it has no body.
DESIGN CHOICE (log entry 1), safe. -/
opaque Config.capacity : Capacity

/-- The byte that index `i` of the buffer holds after the `draw`-th reset, before anything is written to it: any byte
(R42, D25). A free value (log entry 2), safe. -/
opaque Config.drawnByte (draw i : Nat) : Byte

end Sys2Proof
end

