-- ==== Sys2Proof/Machine/State.lean ====
section
/-! DEFINITION. The state of the WireS core (spec 10_state.md R20), the outputs it produces (30_encoding.md R76, R86), the
words its two agents present, the reasons a step can stop, and the state after reset (R42). -/

namespace Sys2Proof.Machine

/-- The direction of the last accepted address phase (R33). The value 3 of its encoding does not exist (I5). -/
inductive Xst where
  /-- no accepted transaction -/
  | idle
  /-- "initiator writes" accepted -/
  | rx
  /-- "initiator reads" accepted -/
  | tx
deriving DecidableEq, Repr

/-- The controller state (R38): the application context, or the callback an invocation waits for. -/
inductive Cst where
  | ready
  | wAddr
  | wReq
  | wRx
  | wStop
deriving DecidableEq, Repr

/-- An open `ENQN` burst: the beats asked for and the bytes received so far (R39). -/
structure Burst where
  /-- the count of the header -/
  n : Byte
  /-- the bytes of the beats so far, first first -/
  bytes : List Byte
deriving DecidableEq, Repr

/-- The four directives of the bus agent's interface (R77). -/
inductive Directive where
  | ackContinue
  | nackContinue
  | ackWaitStart
  | nackWaitStart
deriving DecidableEq, Repr

/-- The four callbacks (R78). -/
inductive CallbackKind where
  /-- on-address-received -/
  | addr
  /-- on-data-received -/
  | rx
  /-- on-request-to-transmit -/
  | req
  /-- on-stop -/
  | stop
deriving DecidableEq, Repr

/-- A command response (R86). -/
inductive Response where
  /-- `Ok(v)`: true = written, false = buffer full -/
  | ok (v : Bool)
  /-- `Count(k)` -/
  | count (k : Byte)
  /-- `Byte(valid, b)` -/
  | byte (valid : Bool) (b : Byte)
  /-- `Avail(v)`, 9-bit two's complement -/
  | avail (v : BitVec 9)
  | ack
  | ill
deriving DecidableEq, Repr

/-- An item of the output traces (R76, R86, R91). -/
inductive Output where
  /-- write `b` to the hardware shift register -/
  | txByte (b : Byte)
  | directive (d : Directive)
  /-- clear the error condition at the hardware layer -/
  | errClr
  /-- the invocation has returned; the interrupt is cleared -/
  | irqDone
  /-- a callback request -/
  | callback (kind : CallbackKind) (addr : BitVec 10) (sc len : Byte)
  /-- a response on the command port -/
  | response (r : Response)
deriving DecidableEq, Repr

/-- The bytes of the buffer that have been written since reset, as (index, byte) pairs with indices strictly rising. An
unlisted index holds no written byte. -/
abbrev Memory := List Host.Cell

/-- The state. The fields from `buf` to `burst` are elements 1 to 14 of R20; the others are the implementation's
parameter, the outputs, and the model's own fields. -/
structure State where
  /-- the capacity C of the buffer (R8); no step writes it (log entry 1) -/
  cap : Capacity
  /-- the written bytes of the shared buffer `buf[0..C-1]` (R21) -/
  buf : Memory
  /-- the model's own: which draw of the unspecified reset contents the buffer's unwritten bytes are (log entry 2) -/
  bufDraw : Nat
  /-- receive read cursor (R23) -/
  rxIdx : Index
  /-- receive fill length (R24) -/
  rxLen : Index
  /-- transmit cursor (R25) -/
  txIdx : Index
  /-- transmit fill length (R26) -/
  txLen : Index
  /-- start counter, 8-bit two's complement (R30) -/
  sc : BitVec 8
  /-- address register (R31) -/
  addr : BitVec 10
  /-- extended-address assembly in progress (R32) -/
  extp : Bool
  /-- direction of the last accepted address phase (R33) -/
  xst : Xst
  /-- DIR bit of the event being processed, 1 = initiator reads (R34) -/
  evdir : Bool
  /-- registered callbacks: bit 0 ADDR, 1 RX, 2 REQ, 3 STOP (R35) -/
  cben : BitVec 4
  /-- event enable (R36) -/
  ie : Bool
  /-- controller state (R38) -/
  cst : Cst
  /-- an `ENQN` waiting for its beats (R39) -/
  burst : Option Burst
  /-- every output so far, in the order emitted (R91, log entry 7) -/
  trace : List Output
  /-- the model's own: event words the bus agent holds pending, oldest first (R206, log entry 4) -/
  evIn : List EventWord
  /-- the model's own: command words presented and not yet accepted, oldest first (R150, log entry 4) -/
  cmdIn : List CommandWord
  /-- the model's own: what the agents present later, in order (R87, R209, log entry 4) -/
  timeline : List PortWord
deriving DecidableEq, Repr

/-- Why a step stops with a fault. -/
inductive Fault where
  /-- a read of the buffer at an index at or above C, an index that does not exist (R11, R50); raised by `bufRead`'s callers
  `execEvTx`, `execDeq` and `execPeek`. Safe: no reachable state forms such an index (R27, log entry 3). -/
  | bufferIndexOutOfRange
deriving DecidableEq, Repr

/-- Why an instruction has no meaning. -/
inductive Refusal where
  /-- the instruction of this mnemonic has no meaning yet; raised by an arm of `exec` only, and no arm raises it. Safe. -/
  | notModelled (mnemonic : String)
deriving DecidableEq, Repr

/-- The state after reset of a core of capacity `cap` (R42, R230): the buffer holds nothing written, nothing has been emitted
(R232), and no agent presents anything. -/
def State.resetAt (cap : Capacity) : State where
  cap := cap
  buf := []
  bufDraw := 0
  rxIdx := 0
  rxLen := 0
  txIdx := 0
  txLen := 0
  sc := -1
  addr := 0
  extp := false
  xst := .idle
  evdir := false
  cben := 0
  ie := true
  cst := .ready
  burst := none
  trace := []
  evIn := []
  cmdIn := []
  timeline := []

/-- The state after reset of the core of the capacity that the implementation fixes (R42, R230, log entry 1). -/
def State.reset : State := State.resetAt Config.capacity

end Sys2Proof.Machine
end

