-- ==== Sys2Proof/Machine/Operands.lean ====
section
/-! DEFINITION. Operand assembly and the values computed from operands: the address machine's forms (R104 to R107), the
response values (R86, R158), and the codes of the enumerations (R33, R77, R78). Field extraction of event and command
words is in Decode.lean (R70, R80, R85). -/

namespace Sys2Proof.Machine

/-- The raw address byte in the 10-bit address register, `zext_10(D)` (R104). -/
def rawAddress (d : Byte) : BitVec 10 := d.setWidth 10

/-- The resolved 7-bit address `zext_10(D[7:1])` (R54, R106). -/
def resolvedAddress (d : Byte) : BitVec 10 := (d.extractLsb' 1 7).setWidth 10

/-- The byte is the first byte of a 10-bit address: `(D & 0xF9) = 0xF0` (R105, 90_conflicts.md C2). -/
def isTenBitStart (d : Byte) : Bool := d &&& 0xF9#8 == 0xF0#8

/-- The assembled 10-bit address `addr[2:1] ++ D` (R107). -/
def assembledAddress (addr : BitVec 10) (d : Byte) : BitVec 10 := addr.extractLsb' 1 2 ++ d

/-- The unread byte count `rxLen - rxIdx`, exact, in 9-bit two's complement (R158). -/
def unreadCount (rxLen rxIdx : Index) : BitVec 9 := BitVec.ofInt 9 ((rxLen.toNat : Int) - (rxIdx.toNat : Int))

/-- The 2-bit code of a directive: bit 1 = wait for start, bit 0 = NACK (R77). -/
def Directive.code : Directive → BitVec 2
  | .ackContinue => 0b00
  | .nackContinue => 0b01
  | .ackWaitStart => 0b10
  | .nackWaitStart => 0b11

/-- The 2-bit code of a callback kind (R78). -/
def CallbackKind.code : CallbackKind → BitVec 2
  | .addr => 0b00
  | .rx => 0b01
  | .req => 0b10
  | .stop => 0b11

/-- The controller state that waits for the return of a callback (R38). -/
def CallbackKind.waitState : CallbackKind → Cst
  | .addr => .wAddr
  | .rx => .wRx
  | .req => .wReq
  | .stop => .wStop

/-- The encoding of `xst` (R33). -/
def Xst.code : Xst → BitVec 2
  | .idle => 0
  | .rx => 1
  | .tx => 2

end Sys2Proof.Machine
end

