-- ==== Sys2Proof/Machine/Flags.lean ====
section
/-! DEFINITION. The conditions the rules test and the one counter they compute: event acceptance (R100), callback presence
(R35), the fill and drain conditions of the two regions (R117, R119, R152, R156), and the start counter (R30, R104).
The block has no arithmetic condition codes (R40). -/

namespace Sys2Proof.Machine

/-- The buffer capacity `C` (R8). -/
def State.C (s : State) : Nat := s.cap.bytes

/-- The core accepts an event: `cst = READY`, `ie = 1` and `burst = none` (R38, R100, R206). -/
def acceptsEvent (s : State) : Bool := s.cst == .ready && s.ie && s.burst.isNone

/-- The callback of this kind is registered: bit 0 ADDR, 1 RX, 2 REQ, 3 STOP of `cben` (R35). -/
def callbackPresent (kind : CallbackKind) (s : State) : Bool := s.cben.getLsbD kind.code.toNat

/-- A received byte is unread, `rxIdx < rxLen` (R156, R157). -/
def rxUnread (s : State) : Bool := decide (s.rxIdx.toNat < s.rxLen.toNat)

/-- A received byte fits, `rxLen < C` (R119). -/
def rxHasRoom (s : State) : Bool := decide (s.rxLen.toNat < s.C)

/-- A staged byte is unsent, `txIdx < txLen` (R117). -/
def txUnsent (s : State) : Bool := decide (s.txIdx.toNat < s.txLen.toNat)

/-- A byte can be staged, `txLen < C` (R152). -/
def txHasRoom (s : State) : Bool := decide (s.txLen.toNat < s.C)

/-- How many of `n` bytes can be staged, `min(n, C - txLen)` (R153). -/
def stageable (n : Byte) (s : State) : Nat := min n.toNat (s.C - s.txLen.toNat)

/-- The start counter after a fresh address byte: `sc + 1` modulo 2^8, two's complement (R30, R104). -/
def nextStartCount (sc : BitVec 8) : BitVec 8 := sc + 1

/-- The sentinel −1, "none yet" (R30). -/
def noStartYet : BitVec 8 := -1

end Sys2Proof.Machine
end

