-- ==== Sys2Proof/Machine/Memory.lean ====
section
/-! DEFINITION. The buffer as a list of written bytes: one read, one write, a run of writes, and the canonical form
(spec 20_memory.md R50, R53). -/

namespace Sys2Proof.Machine

/-- The byte written last at index `a`, or none where nothing has been written since reset. -/
def Memory.read : Memory → Nat → Option Byte
  | [], _ => none
  | (k, b) :: m, a => if a = k then some b else Memory.read m a

/-- Write byte `b` at index `a`, keeping the indices strictly rising. -/
def Memory.write : Memory → Nat → Byte → Memory
  | [], a, b => [(a, b)]
  | (k, c) :: m, a, b =>
    if a < k then (a, b) :: (k, c) :: m
    else if a = k then (a, b) :: m
    else (k, c) :: Memory.write m a b

/-- Write the bytes at consecutive rising indices from `a` on (R53). -/
def Memory.writeAll : Memory → Nat → List Byte → Memory
  | m, _, [] => m
  | m, a, b :: bs => Memory.writeAll (Memory.write m a b) (a + 1) bs

/-- Every index listed is above `a`, and the indices rise strictly. -/
def Memory.wfAbove (a : Nat) : Memory → Bool
  | [] => true
  | (k, _) :: m => decide (a < k) && Memory.wfAbove k m

/-- The canonical form: indices strictly rising. An unlisted index reads as "nothing written", and no entry says that, so
equal memories are equal lists. -/
def Memory.wf : Memory → Bool
  | [] => true
  | (k, _) :: m => Memory.wfAbove k m

/-- Every index listed is below `c` (R50). -/
def Memory.below (c : Nat) (m : Memory) : Bool := m.all (fun cell => decide (cell.1 < c))

end Sys2Proof.Machine
end

