-- ==== Sys2Proof/Machine/Ops.lean ====
section
/-! DEFINITION. The shared operations: the buffer's reads and writes, the outputs (R11), suspending an invocation at a
callback and returning from it (R108, R122, R211, R212, R214), the acceptance of presented words (R100, R150, R209), the
arrival of words, and the reset input (R230). -/

namespace Sys2Proof.Machine

/-! ### The buffer (R11, R21) -/

/-- `BufRead(i)`: the byte written last at `i`, or the byte drawn for `i` at the last reset (R42); none where `i` is no index
of the buffer. -/
def bufRead (s : State) (i : Nat) : Option Byte :=
  if i < s.C then some ((s.buf.read i).getD (Config.drawnByte s.bufDraw i)) else none

/-- `BufWrite(i, b)`. Every caller has `i < C`. -/
def bufWrite (i : Nat) (b : Byte) (s : State) : State := { s with buf := s.buf.write i b }

/-- `BufWrite` of consecutive bytes from index `i` on (R153). Every caller has `i + bytes.length ≤ C`. -/
def bufWriteAll (i : Nat) (bytes : List Byte) (s : State) : State := { s with buf := s.buf.writeAll i bytes }

/-! ### Outputs (R11, R76, R86) -/

/-- `emit X` -/
def emit (o : Output) (s : State) : State := { s with trace := s.trace ++ [o] }

/-- `respond R` -/
def respond (r : Response) (s : State) : State := emit (.response r) s

/-- The item goes to the bus agent (R76). -/
def Output.isBus : Output → Bool
  | .txByte _ | .directive _ | .errClr | .irqDone => true
  | .callback _ _ _ _ | .response _ => false

/-- The bus-side trace (R91). -/
def busTrace (s : State) : List Output := s.trace.filter Output.isBus

/-- The application-side trace (R91). -/
def appTrace (s : State) : List Output := s.trace.filter (fun o => !o.isBus)

/-! ### Suspending and ending an invocation: this block's exception entry and return -/

/-- `dispatch K(args)`: request the callback and wait for its return (R11, R78, R212). Nothing is saved (R211). -/
def dispatchCallback (kind : CallbackKind) (addr : BitVec 10) (sc len : Byte) (s : State) : State :=
  { emit (.callback kind addr sc len) s with cst := kind.waitState }

/-- The end of an invocation: `emit IrqDone` (R122). -/
def endInvocation (s : State) : State := emit .irqDone s

/-- The end of an invocation that may have been suspended: `emit IrqDone` and `cst <- READY` (R109 to R112, R116, R214).
Nothing is restored. -/
def returnReady (s : State) : State := { endInvocation s with cst := .ready }

/-- A directive, then the end of the invocation (R105, R117 to R120). -/
def directiveAndEnd (d : Directive) (s : State) : State := endInvocation (emit (.directive d) s)

/-- A directive, then the return to `READY` (R109, R110, R112). -/
def directiveAndReturn (d : Directive) (s : State) : State := returnReady (emit (.directive d) s)

/-! ### The command port (R83, R155) -/

/-- A command other than `BEAT`: while a burst is open, close it, discard its bytes and the word, and respond `Ill`; otherwise
run the command (R155). -/
def command (run : State → Host.Outcome State Fault Refusal) (s : State) : Host.Outcome State Fault Refusal :=
  match s.burst with
  | some _ => .next (respond .ill { s with burst := none })
  | none => run s

/-! ### Reset (R230 to R232) -/

/-- The reset input: every state element at its reset value, the buffer's contents drawn anew, nothing emitted. What has been
emitted and what the agents present or will present stay (log entry 6). -/
def resetInput (s : State) : State :=
  { State.resetAt s.cap with
    bufDraw := s.bufDraw + 1
    trace := s.trace
    evIn := s.evIn
    cmdIn := s.cmdIn
    timeline := s.timeline }

/-! ### What happens at a step boundary (R38, R209) -/

/-- The presented word the core takes at this boundary, decoded, and the state with that word consumed: a pending event if
one can be accepted (R100), else a command (R150); an event goes before a command (R209). None where there is neither. -/
def takeWord (s : State) : Option (Instr × State) :=
  match acceptsEvent s, s.evIn, s.cmdIn with
  | true, w :: ws, _ => some (decodeEvent s.extp w, { s with evIn := ws })
  | _, _, c :: cs => some (decodeCommand c, { s with cmdIn := cs })
  | _, _, _ => none

/-- The core has nothing to take: the next presentation of the timeline arrives. With none left, the core waits (R213, R221).
Log entry 5. -/
def arrive (s : State) : State :=
  match s.timeline with
  | [] => s
  | .event w :: rest => { s with evIn := s.evIn ++ [w], timeline := rest }
  | .command c :: rest => { s with cmdIn := s.cmdIn ++ [c], timeline := rest }
  | .reset :: rest => resetInput { s with timeline := rest }

/-- The state in which the core takes the word `p` next (for `State.withFetchWord`, log entry 10): it stands first at its port; for
an event word, events are accepted and `extp` does not change what the word decodes to; for a command word, no pending
event goes before it. -/
def presentFirst (s : State) : PortWord → State
  | .event w =>
    { s with
      evIn := w :: s.evIn
      cst := .ready
      ie := true
      burst := none
      extp := if decodeEvent s.extp w = decodeEvent false w then s.extp else false }
  | .command c => { s with cmdIn := c :: s.cmdIn, evIn := if acceptsEvent s then [] else s.evIn }
  | .reset => s

end Sys2Proof.Machine
end

