-- ==== Sys2Proof/Machine/Invocation.lean ====
section
/-! DEFINITION. The parts of an invocation that events and `CBRET` share: the address machine (40_bus_events.md R103 to R112)
and the STOP handler (R113 to R116). -/

namespace Sys2Proof.Machine

/-! ### The address state machine -/

/-- `Reject()` (R109) -/
def reject (s : State) : State := directiveAndReturn .nackWaitStart { s with xst := .idle }

/-- `AcceptWrite()` (R110): `rxIdx` is not reset. -/
def acceptWrite (s : State) : State := directiveAndReturn .ackContinue { s with xst := .rx, rxLen := 0 }

/-- `FinishRead()` (R112) -/
def finishRead (s : State) : State := directiveAndReturn .ackContinue { s with txIdx := 0 }

/-- `AcceptRead()` (R111): the presence of the `REQ` callback is sampled here (R125). -/
def acceptRead (s : State) : State :=
  let s := { s with xst := .tx, txLen := 0 }
  if callbackPresent .req s then dispatchCallback .req 0 0 0 s else finishRead s

/-- `AddressDecision(acc)` (R108, R167) -/
def addressDecision (acc : Bool) (s : State) : State :=
  if !acc then reject s
  else if !s.evdir then acceptWrite s
  else acceptRead s

/-- `Dispatch(a)` (R108): an absent `ADDR` callback means accept. -/
def dispatchAddress (a : BitVec 10) (s : State) : State :=
  if callbackPresent .addr s then dispatchCallback .addr a s.sc 0 s else addressDecision true s

/-- `TenBitFirstByte()` (R105) -/
def tenBitFirstByte (s : State) : State := directiveAndEnd .ackContinue { s with extp := true }

/-- `FreshAddress(D)` (R104, R106) -/
def freshAddress (d : Byte) (s : State) : State :=
  let s := { s with addr := rawAddress d, sc := nextStartCount s.sc }
  if isTenBitStart d then tenBitFirstByte s else dispatchAddress (resolvedAddress d) s

/-- `SecondAddressByte(D)` (R107): `sc` is not incremented. -/
def secondAddressByte (d : Byte) (s : State) : State :=
  let a := assembledAddress s.addr d
  dispatchAddress a { s with addr := a, extp := false }

/-- `AddressEvent(D, DIR)` (R103): the branch depends on `extp` alone. -/
def addressEvent (dir : Bool) (d : Byte) (s : State) : State :=
  let s := { s with evdir := dir }
  if !s.extp then freshAddress d s else secondAddressByte d s

/-! ### STOP -/

/-- `FinishStop()` (R116) -/
def finishStop (s : State) : State := returnReady { s with sc := noStartYet, extp := false, xst := .idle }

/-- `StopAfterReceive()` (R114): `rxIdx` is reset whether or not the `RX` callback exists. -/
def stopAfterReceive (s : State) : State :=
  let s := { s with rxIdx := 0 }
  if callbackPresent .rx s then dispatchCallback .rx 0 0 s.rxLen s else finishStop s

/-- `StopEvent()` (R113, R114, R115) -/
def stopEvent (s : State) : State :=
  match s.xst with
  | .tx => if callbackPresent .stop s then dispatchCallback .stop 0 0 0 s else finishStop s
  | .rx => stopAfterReceive s
  | .idle => finishStop s

/-! ### ERROR -/

/-- `ErrorEvent()` (R102) -/
def errorEvent (s : State) : State :=
  endInvocation (emit .errClr { s with sc := noStartYet, extp := false, xst := .idle })

end Sys2Proof.Machine
end

