-- ==== Sys2Proof/Machine/Commands.lean ====
section
/-! DEFINITION. The meaning of each command word (41_app_commands.md). A command has the same meaning in every controller state,
`CBRET` apart (R150). -/

namespace Sys2Proof.Machine

/-! ### Buffer Manager -/

/-- `enq b` (R152) -/
def execEnq (b : Byte) (s : State) : Host.Outcome State Fault Refusal :=
  command (fun s => .next (
    if txHasRoom s then respond (.ok true) { bufWrite s.txLen.toNat b s with txLen := s.txLen + 1 }
    else respond (.ok false) s)) s

/-- `ENQN_exec(n, bytes)` (R153) -/
def enqnExec (n : Byte) (bytes : List Byte) (s : State) : State :=
  let k := stageable n s
  respond (.count (BitVec.ofNat 8 k))
    { bufWriteAll s.txLen.toNat (bytes.take k) s with
      txLen := BitVec.ofNat 8 (s.txLen.toNat + k)
      burst := none }

/-- `enqn n`, the header of a burst (R154) -/
def execEnqn (n : Byte) (s : State) : Host.Outcome State Fault Refusal :=
  command (fun s => .next (if n = 0 then enqnExec 0 [] s else { s with burst := some ⟨n, []⟩ })) s

/-- `beat b`: a beat of an open burst (R154), or `Ill` outside one (R162) -/
def execBeat (b : Byte) (s : State) : Host.Outcome State Fault Refusal :=
  match s.burst with
  | none => .next (respond .ill s)
  | some ⟨n, bytes⟩ =>
    .next (if (bytes ++ [b]).length = n.toNat then enqnExec n (bytes ++ [b]) s
      else { s with burst := some ⟨n, bytes ++ [b]⟩ })

/-- `deq` (R156) -/
def execDeq (s : State) : Host.Outcome State Fault Refusal :=
  command (fun s =>
    if rxUnread s then
      match bufRead s s.rxIdx.toNat with
      | some b => .next (respond (.byte true b) { s with rxIdx := s.rxIdx + 1 })
      | none => .fault .bufferIndexOutOfRange
    else .next (respond (.byte false 0) s)) s

/-- `peek` (R157) -/
def execPeek (s : State) : Host.Outcome State Fault Refusal :=
  command (fun s =>
    if rxUnread s then
      match bufRead s s.rxIdx.toNat with
      | some b => .next (respond (.byte true b) s)
      | none => .fault .bufferIndexOutOfRange
    else .next (respond (.byte false 0) s)) s

/-- `avail` (R158) -/
def execAvail (s : State) : Host.Outcome State Fault Refusal :=
  command (fun s => .next (respond (.avail (unreadCount s.rxLen s.rxIdx)) s)) s

/-! ### Control -/

/-- `setcb m` (R159) -/
def execSetcb (m : BitVec 4) (s : State) : Host.Outcome State Fault Refusal :=
  command (fun s => .next (respond .ack { s with cben := m })) s

/-- `setie e` (R160) -/
def execSetie (e : Bool) (s : State) : Host.Outcome State Fault Refusal :=
  command (fun s => .next (respond .ack { s with ie := e })) s

/-- `cbret acc` (R166 to R171): the resumed segment runs in the same step. -/
def execCbret (acc : Bool) (s : State) : Host.Outcome State Fault Refusal :=
  command (fun s => .next (
    match s.cst with
    | .ready => respond .ill s
    | .wAddr => addressDecision acc (respond .ack s)
    | .wReq => finishRead (respond .ack s)
    | .wRx => finishStop (respond .ack s)
    | .wStop => finishStop (respond .ack s))) s

/-! ### Reserved opcodes (R83, R161) -/

/-- An illegal command word: respond `Ill`, and change nothing (R83, R161, R205). -/
def illegalCommand (s : State) : Host.Outcome State Fault Refusal :=
  command (fun s => .next (respond .ill s)) s

/-- OP = 0x0 (R161) -/
def execReserved0 (s : State) : Host.Outcome State Fault Refusal := illegalCommand s
/-- OP = 0x9 (R161) -/
def execReserved9 (s : State) : Host.Outcome State Fault Refusal := illegalCommand s
/-- OP = 0xA (R161) -/
def execReservedA (s : State) : Host.Outcome State Fault Refusal := illegalCommand s
/-- OP = 0xB (R161) -/
def execReservedB (s : State) : Host.Outcome State Fault Refusal := illegalCommand s
/-- OP = 0xC (R161) -/
def execReservedC (s : State) : Host.Outcome State Fault Refusal := illegalCommand s
/-- OP = 0xD (R161) -/
def execReservedD (s : State) : Host.Outcome State Fault Refusal := illegalCommand s
/-- OP = 0xE (R161) -/
def execReservedE (s : State) : Host.Outcome State Fault Refusal := illegalCommand s

end Sys2Proof.Machine
end

