-- ==== Sys2Proof/Machine/Events.lean ====
section
/-! DEFINITION. The meaning of each event word (40_bus_events.md). A meaning is the invocation itself; that an event is taken only
when it is accepted (R100) is `takeWord`'s test (log entry 8). -/

namespace Sys2Proof.Machine

/-- `ev.berr`: ERROR (R102) -/
def execEvBerr (s : State) : Host.Outcome State Fault Refusal := .next (errorEvent s)

/-- `ev.coll`: ERROR (R102) -/
def execEvColl (s : State) : Host.Outcome State Fault Refusal := .next (errorEvent s)

/-- `ev.addr`: ADDRESS by an address match (R103) -/
def execEvAddr (dir : Bool) (d : Byte) (s : State) : Host.Outcome State Fault Refusal := .next (addressEvent dir d s)

/-- `ev.addr.cont`: ADDRESS by a data-phase word during 10-bit assembly (R74, R103) -/
def execEvAddrCont (dir : Bool) (d : Byte) (s : State) : Host.Outcome State Fault Refusal := .next (addressEvent dir d s)

/-- `ev.stop`: STOP (R113 to R116) -/
def execEvStop (s : State) : Host.Outcome State Fault Refusal := .next (stopEvent s)

/-- `ev.tx`: TXDATA (R117) or transmit overrun (R118) -/
def execEvTx (s : State) : Host.Outcome State Fault Refusal :=
  if txUnsent s then
    match bufRead s s.txIdx.toNat with
    | some b => .next (directiveAndEnd .ackContinue { emit (.txByte b) s with txIdx := s.txIdx + 1 })
    | none => .fault .bufferIndexOutOfRange
  else .next (directiveAndEnd .nackWaitStart s)

/-- `ev.rx`: RXDATA (R119) or receive overrun (R120) -/
def execEvRx (d : Byte) (s : State) : Host.Outcome State Fault Refusal :=
  .next (if rxHasRoom s then directiveAndEnd .ackContinue { bufWrite s.rxLen.toNat d s with rxLen := s.rxLen + 1 }
    else directiveAndEnd .nackWaitStart s)

/-- `ev.none`: NONE (R121) -/
def execEvNone (s : State) : Host.Outcome State Fault Refusal := .next (endInvocation s)

end Sys2Proof.Machine
end

