-- ==== Sys2Proof/Machine/Dispatch.lean ====
section
/-! DEFINITION. The meaning of every instruction, one arm per constructor of `Instr`. -/

namespace Sys2Proof.Machine

/-- Run one instruction (R101, R150). -/
def exec (i : Instr) (s : State) : Host.Outcome State Fault Refusal :=
  match i with
  | .evBerr => Sys2Proof.Machine.execEvBerr s
  | .evColl => Sys2Proof.Machine.execEvColl s
  | .evAddr dir d => Sys2Proof.Machine.execEvAddr dir d s
  | .evAddrCont dir d => Sys2Proof.Machine.execEvAddrCont dir d s
  | .evStop => Sys2Proof.Machine.execEvStop s
  | .evTx => Sys2Proof.Machine.execEvTx s
  | .evRx d => Sys2Proof.Machine.execEvRx d s
  | .evNone => Sys2Proof.Machine.execEvNone s
  | .enq b => Sys2Proof.Machine.execEnq b s
  | .enqn n => Sys2Proof.Machine.execEnqn n s
  | .deq => Sys2Proof.Machine.execDeq s
  | .peek => Sys2Proof.Machine.execPeek s
  | .avail => Sys2Proof.Machine.execAvail s
  | .setcb m => Sys2Proof.Machine.execSetcb m s
  | .setie e => Sys2Proof.Machine.execSetie e s
  | .cbret acc => Sys2Proof.Machine.execCbret acc s
  | .beat b => Sys2Proof.Machine.execBeat b s
  | .reserved0 => Sys2Proof.Machine.execReserved0 s
  | .reserved9 => Sys2Proof.Machine.execReserved9 s
  | .reservedA => Sys2Proof.Machine.execReservedA s
  | .reservedB => Sys2Proof.Machine.execReservedB s
  | .reservedC => Sys2Proof.Machine.execReservedC s
  | .reservedD => Sys2Proof.Machine.execReservedD s
  | .reservedE => Sys2Proof.Machine.execReservedE s

end Sys2Proof.Machine
end

