-- ==== Sys2Proof/Machine/Step.lean ====
section
/-! DEFINITION. One step of the core (10_state.md R38): it takes a presented word and runs it, or, with nothing to take, the next
presentation arrives. -/

namespace Sys2Proof.Machine

/-- One step (R38, R100, R150, R209). -/
def step (s : State) : Host.Outcome State Fault Refusal :=
  match takeWord s with
  | some (i, t) => exec i t
  | none => .next (arrive s)

/-- `s` with the word that the host numbers `w` presented so that the next step takes it (log entry 10); `s` itself where there is no
such word. -/
def State.withFetchWord (s : State) (nbits w : Nat) : State :=
  match tablePort nbits w with
  | some p => presentFirst s p
  | none => s

end Sys2Proof.Machine
end

