-- ==== Sys2Proof/Safety.lean ====
section
/-! DEFINITION. What counts as a safe run of the WireS core: the invariant of its states (10_state.md R27, R29, R33, R39,
R43), a run of instructions, the shape of what a segment emits (30_encoding.md R76, 40_bus_events.md R122), the state an accepted
address leaves (R110 to R112), and the two of the bus agent's duties that one word can show (60_exceptions.md R222). -/

namespace Sys2Proof.Machine

/-! ### The invariant -/

/-- The four index registers are at most `C` (R27). -/
abbrev State.Bounded (s : State) : Prop :=
  s.rxLen.toNat ≤ s.C ∧ s.txLen.toNat ≤ s.C ∧ s.rxIdx.toNat ≤ s.C ∧ s.txIdx.toNat ≤ s.C

/-- The buffer is in its canonical form and lists only indices below `C` (R50). -/
abbrev State.BufferFormed (s : State) : Prop := Memory.wf s.buf = true ∧ Memory.below s.C s.buf = true

/-- Every index below `rxLen` or below `txLen` has been written since reset (R43). -/
abbrev State.RegionsWritten (s : State) : Prop :=
  ∀ i, i < max s.rxLen.toNat s.txLen.toNat → (s.buf.read i).isSome = true

/-- An open burst has fewer bytes than its count (R39). -/
def Burst.unfinished (b : Burst) : Bool := decide (b.bytes.length < b.n.toNat)

/-- An open burst still waits for a beat (R39). -/
abbrev State.BurstUnfinished (s : State) : Prop := s.burst.all Burst.unfinished = true

/-- A suspended invocation waits in the direction it was dispatched for (R111, R113, R114), and while an address is being
decided none is being assembled (R105, R107). -/
abbrev State.WaitsInDirection (s : State) : Prop :=
  match s.cst with
  | .ready => True
  | .wAddr => s.extp = false
  | .wReq => s.xst = .tx ∧ s.extp = false
  | .wRx => s.xst = .rx
  | .wStop => s.xst = .tx

/-- The invariant of the core. -/
structure State.Inv (s : State) : Prop where
  bounded : s.Bounded
  formed : s.BufferFormed
  written : s.RegionsWritten
  burst : s.BurstUnfinished
  waits : s.WaitsInDirection

/-! ### Runs -/

/-- Run the instructions in order, stopping at the first fault or refusal. -/
def execList : List Instr → State → Host.Outcome State Fault Refusal
  | [], s => .next s
  | i :: is, s =>
    match exec i s with
    | .next t => execList is t
    | .fault r => .fault r
    | .refused r => .refused r

/-! ### What a segment emits -/

/-- a `Directive` item -/
def Output.isDirective : Output → Bool
  | .directive _ => true
  | .txByte _ | .errClr | .irqDone | .callback _ _ _ _ | .response _ => false

/-- a `TxByte` item -/
def Output.isTxByte : Output → Bool
  | .txByte _ => true
  | .directive _ | .errClr | .irqDone | .callback _ _ _ _ | .response _ => false

/-- an `IrqDone` item -/
def Output.isIrqDone : Output → Bool
  | .irqDone => true
  | .txByte _ | .directive _ | .errClr | .callback _ _ _ _ | .response _ => false

/-- a `Callback` item -/
def Output.isCallback : Output → Bool
  | .callback _ _ _ _ => true
  | .txByte _ | .directive _ | .errClr | .irqDone | .response _ => false

/-- a command response -/
def Output.isResponse : Output → Bool
  | .response _ => true
  | .txByte _ | .directive _ | .errClr | .irqDone | .callback _ _ _ _ => false

/-- The `sc` argument of an `ADDR` callback request (R78, R79). -/
def Output.addrCallbackCount : Output → Option (BitVec 8)
  | .callback .addr _ sc _ => some sc
  | .callback .rx _ _ _ | .callback .req _ _ _ | .callback .stop _ _ _ => none
  | .txByte _ | .directive _ | .errClr | .irqDone | .response _ => none

/-- What the last segment of an invocation emits: no `Callback`; `IrqDone` once, last; at most one `TxByte`; at most one
`Directive`, just before `IrqDone` (R76, R122). -/
structure EndsInvocation (items : List Output) : Prop where
  noCallback : items.countP Output.isCallback = 0
  oneIrqDone : items.countP Output.isIrqDone = 1
  irqDoneLast : items.getLast? = some .irqDone
  atMostOneTxByte : items.countP Output.isTxByte ≤ 1
  atMostOneDirective : items.countP Output.isDirective ≤ 1
  directiveBeforeIrqDone : ∀ (j : Nat) (d : Directive), items[j]? = some (.directive d) → items[j + 1]? = some .irqDone

/-- What a segment that ends in a dispatch emits: nothing to the bus, and one `Callback`, last (R11, R76). -/
structure SuspendsInvocation (items : List Output) (kind : CallbackKind) : Prop where
  nothingToTheBus : items.countP Output.isBus = 0
  oneCallback : items.countP Output.isCallback = 1
  callbackLast : ∃ addr sc len, items.getLast? = some (.callback kind addr sc len)

/-! ### Address phases -/

/-- The instruction is an event of class ADDRESS with direction `dir` and byte `d` (R103). -/
def IsAddressEvent (i : Instr) (dir : Bool) (d : Byte) : Prop := i = .evAddr dir d ∨ i = .evAddrCont dir d

/-- What accepting an address of direction `dir` does: for "initiator writes" R110; for "initiator reads" R111, with the `REQ`
callback, or R111 and R112 without it. -/
def acceptedAddress (dir : Bool) (s : State) : State :=
  if dir = false then
    { s with xst := .rx, rxLen := 0, cst := .ready, trace := s.trace ++ [.directive .ackContinue, .irqDone] }
  else if s.cben[2] = true then
    { s with xst := .tx, txLen := 0, cst := .wReq, trace := s.trace ++ [.callback .req 0 0 0] }
  else
    { s with xst := .tx, txLen := 0, txIdx := 0, cst := .ready, trace := s.trace ++ [.directive .ackContinue, .irqDone] }

/-- One address phase with the answer of its `ADDR` callback: a 7-bit byte, or a 10-bit address in two bytes. -/
inductive AddressPhase where
  | seven (dir : Bool) (d : Byte) (acc : Bool)
  | ten (dir dir2 : Bool) (xx : BitVec 2) (z : Byte) (acc : Bool)
deriving DecidableEq, Repr

/-- The first byte `11110xx0` of a 10-bit address (R105). -/
def tenBitByte (xx : BitVec 2) : Byte := 0b11110#5 ++ xx ++ 0#1

/-- The events and the callback return of an address phase. -/
def AddressPhase.instrs : AddressPhase → List Instr
  | .seven dir d acc => [.evAddr dir d, .cbret acc]
  | .ten dir dir2 xx z acc => [.evAddr dir (tenBitByte xx), .evAddrCont dir2 z, .cbret acc]

/-- The byte of a 7-bit phase is not the start of a 10-bit address (R105). -/
def AddressPhase.proper : AddressPhase → Bool
  | .seven _ d _ => d &&& 0xF9#8 != 0xF0#8
  | .ten _ _ _ _ _ => true

/-! ### Duties of the bus agent (R222), premises a statement may take -/

/-- Duty 2: the DIR bit of an address phase is the R/W bit of the address byte, and 0 for the second byte of a 10-bit address. -/
def keepsDirDuty (extp : Bool) (w : EventWord) : Bool :=
  match classify w extp with
  | .address => w.dir == (!extp && w.data[0])
  | .error | .stop | .txData | .rxData | .none => true

/-- Duty 4: TXDATA only in a read transaction, RXDATA only in a write transaction. -/
def keepsDataDuty (s : State) (w : EventWord) : Bool :=
  match classify w s.extp with
  | .txData => s.xst == .tx
  | .rxData => s.xst == .rx
  | .error | .address | .stop | .none => true

end Sys2Proof.Machine
end

