-- ==== Sys2Proof/Certificates/Slice0/Obligations.lean ====
section
/-! DEFINITION. The statements about the WireS core, for the provers. A statement of an instruction's result gives the whole next
state, so that it is also the instruction's completion and its frame: a field that the record update does not name is
unchanged. Where a buffer byte is stored, the new buffer is given by what every index reads as. -/

open Sys2Proof Sys2Proof.Machine

/-! ### Decoding, encoding, and the step -/

/-- Words written out from R70, R80, R87 and R88 decode to the instructions they stand for, one or more of every family. -/
def Obligations.DecodesTheWordsOfTheSpec : Prop :=
  decodeEvent false 0b10000000000000#14 = .evBerr ∧
  decodeEvent false 0b01000000000000#14 = .evColl ∧
  decodeEvent false 0b00100110000101#14 = .evAddr true 0x85#8 ∧
  decodeEvent true 0b00001010100101#14 = .evAddrCont false 0xA5#8 ∧
  decodeEvent false 0b00010000000000#14 = .evStop ∧
  decodeEvent false 0b00001100000000#14 = .evTx ∧
  decodeEvent false 0b00001010100101#14 = .evRx 0xA5#8 ∧
  decodeEvent false 0b00000011111111#14 = .evNone ∧
  decodeCommand 0b0001000010101010#16 = .enq 0xAA#8 ∧
  decodeCommand 0b0010000000000011#16 = .enqn 3#8 ∧
  decodeCommand 0b0110010100000000#16 = .setcb 0x5#4 ∧
  decodeCommand 0b1000000000000001#16 = .cbret true ∧
  decodeCommand 0b1111000000010010#16 = .beat 0x12#8 ∧
  decodeCommand 0b1001000000000000#16 = .reserved9

/-- R74: an event word's instruction, class by class in the order of priority. -/
def Obligations.EventWordsDecodeByPriority : Prop :=
  ∀ (extp : Bool) (w : EventWord),
    (w[13] = true → decodeEvent extp w = .evBerr) ∧
    (w[13] = false → w[12] = true → decodeEvent extp w = .evColl) ∧
    (w[13] = false → w[12] = false →
      (w[11] = true → decodeEvent extp w = .evAddr (w[8]) (w.extractLsb 7 0)) ∧
      (w[11] = false →
        (w[9] = true → extp = true → decodeEvent extp w = .evAddrCont (w[8]) (w.extractLsb 7 0)) ∧
        ((w[9] = false ∨ extp = false) →
          (w[10] = true → decodeEvent extp w = .evStop) ∧
          (w[10] = false →
            (w[9] = true → w[8] = true → decodeEvent extp w = .evTx) ∧
            (w[9] = true → w[8] = false → decodeEvent extp w = .evRx (w.extractLsb 7 0)) ∧
            (w[9] = false → decodeEvent extp w = .evNone)))))

/-- R82: a command word's meaning depends on OP, and on A for `SETCB`, D for `ENQ`, `ENQN` and `BEAT`, D[0] for `SETIE` and
`CBRET`, and on nothing else. -/
def Obligations.UnusedCommandFieldsAreIgnored : Prop :=
  ∀ (u v : CommandWord), u.extractLsb 15 12 = v.extractLsb 15 12 →
    (u.extractLsb 15 12 = 0x6#4 → u.extractLsb 11 8 = v.extractLsb 11 8) →
    (u.extractLsb 15 12 = 0x1#4 ∨ u.extractLsb 15 12 = 0x2#4 ∨ u.extractLsb 15 12 = 0xF#4 →
      u.extractLsb 7 0 = v.extractLsb 7 0) →
    (u.extractLsb 15 12 = 0x7#4 ∨ u.extractLsb 15 12 = 0x8#4 → u[0] = v[0]) →
    decodeCommand u = decodeCommand v

/-- R71, R72: the DATA field matters only in the classes ADDRESS and RXDATA, and DIR not in the classes ERROR, STOP and NONE. -/
def Obligations.UnusedEventFieldsAreIgnored : Prop :=
  ∀ (extp : Bool) (w w' : EventWord),
    (w.extractLsb 13 8 = w'.extractLsb 13 8 → classify w extp ≠ .address → classify w extp ≠ .rxData →
      decodeEvent extp w = decodeEvent extp w') ∧
    (w.extractLsb 13 9 = w'.extractLsb 13 9 →
      classify w extp = .error ∨ classify w extp = .stop ∨ classify w extp = .none →
      decodeEvent extp w = decodeEvent extp w')

/-- Every instruction, with every operand, is what its encoding decodes to, in every state that can decode it; and the port is the
instruction's. -/
def Obligations.DecodeOfEncodeIsTheInstruction : Prop :=
  ∀ (extp : Bool) (i : Instr), WellFormed extp i = true → decodePort extp (encode i) = some i

/-- What a word decodes to is well formed, arrives on that word's port, and is all that the word says: encoding it and decoding again
gives it back. -/
def Obligations.DecodedInstructionsAreWellFormed : Prop :=
  ∀ (extp : Bool) (p : PortWord) (i : Instr), decodePort extp p = some i →
    WellFormed extp i = true ∧ (i.isEvent = true ↔ ∃ w, p = .event w) ∧ (i.isEvent = false ↔ ∃ c, p = .command c) ∧
    decodePort extp (encode i) = some i

/-- R38, R100, R150, R209: a step runs the decoded instruction. A pending event goes first where the core accepts events; otherwise the
first command; the word is consumed, and nothing else changes before the instruction runs. With nothing to take, the next
presentation arrives (log entry 5). -/
def Obligations.StepRunsTheDecodedInstruction : Prop :=
  (∀ (s : State) (w : EventWord) (ws : List EventWord),
    s.cst = .ready → s.ie = true → s.burst = none → s.evIn = w :: ws →
    step s = exec (decodeEvent s.extp w) { s with evIn := ws }) ∧
  (∀ (s : State) (c : CommandWord) (cs : List CommandWord),
    (s.cst ≠ .ready ∨ s.ie = false ∨ s.burst ≠ none ∨ s.evIn = []) → s.cmdIn = c :: cs →
    step s = exec (decodeCommand c) { s with cmdIn := cs }) ∧
  (∀ s : State,
    (s.cst ≠ .ready ∨ s.ie = false ∨ s.burst ≠ none ∨ s.evIn = []) → s.cmdIn = [] →
    step s = .next (arrive s))

/-- R100, R206: an event is accepted when `cst = READY`, `ie = 1` and `burst = none`, and starts its invocation; otherwise no step
consumes it: it stays pending. That it also survives the arrival of the reset input is the model's choice (log entries 4 and 6): R231
leaves the bus agent's reset outside the block. -/
def Obligations.UnacceptedEventsStayPending : Prop :=
  (∀ (s : State) (w : EventWord) (ws : List EventWord),
    s.cst = .ready → s.ie = true → s.burst = none → s.evIn = w :: ws →
    step s = exec (decodeEvent s.extp w) { s with evIn := ws }) ∧
  (∀ s t : State, (s.cst ≠ .ready ∨ s.ie = false ∨ s.burst ≠ none) → step s = .next t → s.evIn <+: t.evIn)

/-- No instruction touches the ports, the timeline, the capacity or the draw of the buffer's reset contents (the model's own fields, log
entries 1, 2 and 4), or takes back an output. -/
def Obligations.InstructionsLeaveTheAgentsAlone : Prop :=
  ∀ (i : Instr) (s t : State), exec i s = .next t →
    t.evIn = s.evIn ∧ t.cmdIn = s.cmdIn ∧ t.timeline = s.timeline ∧ t.cap = s.cap ∧ t.bufDraw = s.bufDraw ∧
    s.trace <+: t.trace

/-! ### ERROR and ADDRESS -/

/-- R102: a word with BERR or COLL set abandons the transaction, whatever its other bits; a STOP after it announces nothing. -/
def Obligations.ErrorAbandonsTheTransaction : Prop :=
  ∀ (i : Instr) (s : State),
    (i = .evBerr ∨ i = .evColl ∨ ∃ w : EventWord, (w[13] = true ∨ w[12] = true) ∧ i = decodeEvent s.extp w) →
    ∃ t, exec i s = .next t ∧
      t = { s with sc := 0xFF#8, extp := false, xst := .idle, trace := s.trace ++ [.errClr, .irqDone] } ∧
      ∃ u, exec .evStop t = .next u ∧ u.trace = t.trace ++ [.irqDone]

/-- R105: exactly the bytes 0xF0, 0xF2, 0xF4 and 0xF6 start a 10-bit address; such a byte is counted (R104), acknowledged, and calls
nobody. -/
def Obligations.TenBitFirstByteStartsAssembly : Prop :=
  (∀ d : Byte, d &&& 0xF9#8 = 0xF0#8 ↔ d = 0xF0#8 ∨ d = 0xF2#8 ∨ d = 0xF4#8 ∨ d = 0xF6#8) ∧
  (∀ (i : Instr) (dir : Bool) (d : Byte) (s : State), IsAddressEvent i dir d → s.extp = false →
    d &&& 0xF9#8 = 0xF0#8 →
    exec i s = .next { s with
      evdir := dir, addr := d.setWidth 10, sc := s.sc + 1, extp := true
      trace := s.trace ++ [.directive .ackContinue, .irqDone] })

/-- R104, R106, R108: a fresh 7-bit address byte with the `ADDR` callback registered: the raw byte goes to `addr`, the start is counted,
and the callback gets D[7:1] and the count. -/
def Obligations.FreshAddressRequestsTheAddrCallback : Prop :=
  ∀ (i : Instr) (dir : Bool) (d : Byte) (s : State), IsAddressEvent i dir d → s.extp = false →
    d &&& 0xF9#8 ≠ 0xF0#8 → s.cben[0] = true →
    exec i s = .next { s with
      evdir := dir, addr := d.setWidth 10, sc := s.sc + 1, cst := .wAddr
      trace := s.trace ++ [.callback .addr ((d.extractLsb 7 1).setWidth 10) (s.sc + 1) 0] }

/-- R104, R108 to R112: a fresh 7-bit address byte with no `ADDR` callback is accepted in the direction of the event. -/
def Obligations.FreshAddressWithoutCallbackIsAccepted : Prop :=
  ∀ (i : Instr) (dir : Bool) (d : Byte) (s : State), IsAddressEvent i dir d → s.extp = false →
    d &&& 0xF9#8 ≠ 0xF0#8 → s.cben[0] = false →
    exec i s = .next (acceptedAddress dir { s with evdir := dir, addr := d.setWidth 10, sc := s.sc + 1 })

/-- R107, R108: the second byte completes the 10-bit address `(xx << 8) | zzzzzzzz`, is not counted, and goes on as a 7-bit address
does. -/
def Obligations.SecondByteCompletesTheAddress : Prop :=
  ∀ (i : Instr) (dir : Bool) (d : Byte) (s : State) (a : BitVec 10), IsAddressEvent i dir d → s.extp = true →
    a = ((s.addr >>> 1 &&& 3#10) <<< 8) ||| d.setWidth 10 →
    (s.cben[0] = true →
      exec i s = .next { s with
        evdir := dir, addr := a, extp := false, cst := .wAddr
        trace := s.trace ++ [.callback .addr a s.sc 0] }) ∧
    (s.cben[0] = false →
      exec i s = .next (acceptedAddress dir { s with evdir := dir, addr := a, extp := false }))

/-- The source's 10-bit property (95_test_vectors.md L1.2): the `ADDR` callback fires once, after the second byte, with
`(xx << 8) | zzzzzzzz`, and the two bytes count as one start. -/
def Obligations.TenBitAddressFiresTheCallbackOnce : Prop :=
  ∀ (dir dir2 : Bool) (xx : BitVec 2) (z : Byte) (s : State), s.extp = false → s.cben[0] = true →
    ∃ t, execList [.evAddr dir (tenBitByte xx), .evAddrCont dir2 z] s = .next t ∧
      t.trace = s.trace ++ [.directive .ackContinue, .irqDone, .callback .addr (xx ++ z) (s.sc + 1) 0] ∧
      t.sc = s.sc + 1 ∧ t.addr = xx ++ z ∧ t.extp = false ∧ t.cst = .wAddr ∧ t.evdir = dir2

/-- R124: the byte `11110xx1` of a 10-bit read after a repeated START is taken as a 7-bit address: it is counted, overwrites `addr`, and
the callback gets `0x78 | xx`, whatever 10-bit address was assembled before. -/
def Obligations.TenBitReadByteIsASevenBitAddress : Prop :=
  ∀ (dir : Bool) (xx : BitVec 2) (s : State), s.extp = false → s.cben[0] = true →
    ∃ t, exec (.evAddr dir (0b11110#5 ++ xx ++ 1#1)) s = .next t ∧
      t.trace = s.trace ++ [.callback .addr (0x78#10 ||| xx.setWidth 10) (s.sc + 1) 0] ∧
      t.addr = 0xF1#10 ||| (xx.setWidth 10 <<< 1) ∧ t.sc = s.sc + 1 ∧ t.extp = false

/-! ### Return from a callback -/

/-- R109: a rejected address is answered NACK and wait for start; no index, length or byte changes. -/
def Obligations.RejectTouchesNoBufferState : Prop :=
  ∀ s : State, s.burst = none → s.cst = .wAddr →
    exec (.cbret false) s = .next { s with
      xst := .idle, cst := .ready
      trace := s.trace ++ [.response .ack, .directive .nackWaitStart, .irqDone] }

/-- R110, R111: an accepted address resets `rxLen` (not `rxIdx`) for a write, and `txLen` for a read before the `REQ` callback; without
that callback the read is set up at once (R112). -/
def Obligations.AcceptSetsUpTheTransaction : Prop :=
  ∀ s : State, s.burst = none → s.cst = .wAddr →
    exec (.cbret true) s = .next (acceptedAddress s.evdir { s with trace := s.trace ++ [.response .ack] })

/-- R168, R112: the return from `REQ` resets `txIdx`, and only then acknowledges. -/
def Obligations.ReturnFromReqFinishesTheRead : Prop :=
  ∀ (acc : Bool) (s : State), s.burst = none → s.cst = .wReq →
    exec (.cbret acc) s = .next { s with
      txIdx := 0, cst := .ready
      trace := s.trace ++ [.response .ack, .directive .ackContinue, .irqDone] }

/-- R169, R170, R116: the return from `RX` or `STOP` finishes the STOP; the received bytes stay as they are. -/
def Obligations.ReturnFromRxOrStopFinishesTheStop : Prop :=
  ∀ (acc : Bool) (s : State), s.burst = none → s.cst = .wRx ∨ s.cst = .wStop →
    exec (.cbret acc) s = .next { s with
      sc := 0xFF#8, extp := false, xst := .idle, cst := .ready
      trace := s.trace ++ [.response .ack, .irqDone] }

/-- R171: the accept bit is read in `W_ADDR` and nowhere else. -/
def Obligations.AcceptBitIsReadOnlyInWAddr : Prop :=
  (∀ s : State, s.cst ≠ .wAddr → exec (.cbret true) s = exec (.cbret false) s) ∧
  (∀ s : State, s.cst = .wAddr → s.burst = none → exec (.cbret true) s ≠ exec (.cbret false) s)

/-- R83, R166: a `CBRET` with no callback outstanding responds `Ill` and changes nothing. -/
def Obligations.CbretWithNoCallbackIsIllegal : Prop :=
  ∀ (acc : Bool) (s : State), s.burst = none → s.cst = .ready →
    exec (.cbret acc) s = .next { s with trace := s.trace ++ [.response .ill] }

/-- R125, R111: the presence of the `REQ` callback is sampled when its dispatch point is reached: a `SETCB` inside the `ADDR` callback
decides whether `REQ` fires. -/
def Obligations.SetcbInsideTheAddrCallbackDecidesReq : Prop :=
  ∀ (m : BitVec 4) (s : State), s.burst = none → s.cst = .wAddr → s.evdir = true →
    ∃ t, execList [.setcb m, .cbret true] s = .next t ∧ t.cben = m ∧ t.txLen = 0 ∧ t.xst = .tx ∧
      (m[2] = true → t.cst = .wReq ∧
        t.trace = s.trace ++ [.response .ack, .response .ack, .callback .req 0 0 0]) ∧
      (m[2] = false → t.cst = .ready ∧ t.txIdx = 0 ∧
        t.trace = s.trace ++ [.response .ack, .response .ack, .directive .ackContinue, .irqDone])

/-- R239, R118: bytes staged before a read address is accepted are never sent: with no `REQ` callback the first TXDATA is an overrun,
whatever `txLen` was. -/
def Obligations.PreStagedBytesAreDiscarded : Prop :=
  ∀ s : State, s.burst = none → s.cst = .wAddr → s.evdir = true → s.cben[2] = false →
    ∃ t, execList [.cbret true, .evTx] s = .next t ∧ t.txLen = 0 ∧ t.txIdx = 0 ∧ t.buf = s.buf ∧
      t.trace = s.trace ++ [.response .ack, .directive .ackContinue, .irqDone, .directive .nackWaitStart, .irqDone]

/-- R29, R240: accepting a write address resets `rxLen` and leaves `rxIdx`: `AVAIL` then reports `-rxIdx`, and `DEQ` reports empty, until
bytes pass the stale cursor. -/
def Obligations.AcceptedWriteLeavesAStaleCursor : Prop :=
  ∀ s : State, s.burst = none → s.cst = .wAddr → s.evdir = false →
    ∃ (t : State) (v : BitVec 9), execList [.cbret true, .avail, .deq] s = .next t ∧
      v.toInt = -(s.rxIdx.toNat : Int) ∧ t.rxIdx = s.rxIdx ∧ t.rxLen = 0 ∧ t.buf = s.buf ∧
      t.trace = s.trace ++ [.response .ack, .directive .ackContinue, .irqDone, .response (.avail v),
        .response (.byte false 0)]

/-! ### STOP, data phases, NONE -/

/-- R113 to R116: STOP, by the direction of the transaction that ran. After a read the `STOP` callback is called where registered; after a
write `rxIdx` is reset, and the `RX` callback gets `rxLen` where registered; with no accepted transaction nobody is called. Without a
callback the STOP is finished at once. -/
def Obligations.StopFollowsTheDirectionOfTheTransaction : Prop :=
  (∀ (extp : Bool) (w : EventWord), w[13] = false → w[12] = false → w[11] = false → w[10] = true →
    ¬ (w[9] = true ∧ extp = true) → decodeEvent extp w = .evStop) ∧
  ∀ s : State,
    (s.xst = .tx → s.cben[3] = true →
      exec .evStop s = .next { s with cst := .wStop, trace := s.trace ++ [.callback .stop 0 0 0] }) ∧
    (s.xst = .tx → s.cben[3] = false →
      exec .evStop s = .next { s with
        sc := 0xFF#8, extp := false, xst := .idle, cst := .ready, trace := s.trace ++ [.irqDone] }) ∧
    (s.xst = .rx → s.cben[1] = true →
      exec .evStop s = .next { s with
        rxIdx := 0, cst := .wRx, trace := s.trace ++ [.callback .rx 0 0 s.rxLen] }) ∧
    (s.xst = .rx → s.cben[1] = false →
      exec .evStop s = .next { s with
        rxIdx := 0, sc := 0xFF#8, extp := false, xst := .idle, cst := .ready, trace := s.trace ++ [.irqDone] }) ∧
    (s.xst = .idle →
      exec .evStop s = .next { s with
        sc := 0xFF#8, extp := false, cst := .ready, trace := s.trace ++ [.irqDone] })

/-- R117, R118: TXDATA sends the byte at `txIdx`, the one written last there, and advances the cursor; with nothing left to send it is
a transmit overrun. -/
def Obligations.TxDataSendsTheNextByteOrNacks : Prop :=
  (∀ w : EventWord, w[13] = false → w[12] = false → w[11] = false → w[10] = false → w[9] = true → w[8] = true →
    decodeEvent false w = .evTx) ∧
  ∀ s : State,
    (s.txIdx.toNat < s.txLen.toNat → s.txIdx.toNat < s.C →
      ∃ b, bufRead s s.txIdx.toNat = some b ∧ (∀ c, s.buf.read s.txIdx.toNat = some c → b = c) ∧
        exec .evTx s = .next { s with
          txIdx := s.txIdx + 1, trace := s.trace ++ [.txByte b, .directive .ackContinue, .irqDone] }) ∧
    (s.txLen.toNat ≤ s.txIdx.toNat →
      exec .evTx s = .next { s with trace := s.trace ++ [.directive .nackWaitStart, .irqDone] })

/-- R119, R120: RXDATA stores the byte at `rxLen`, whatever `xst` is, and the byte that fills the buffer is still acknowledged; a byte
that does not fit is not stored. -/
def Obligations.RxDataStoresTheByteOrNacks : Prop :=
  (∀ w : EventWord, w[13] = false → w[12] = false → w[11] = false → w[10] = false → w[9] = true → w[8] = false →
    decodeEvent false w = .evRx (w.extractLsb 7 0)) ∧
  ∀ (d : Byte) (s : State),
    (s.rxLen.toNat < s.C →
      ∃ m, exec (.evRx d) s = .next { s with
          buf := m, rxLen := s.rxLen + 1, trace := s.trace ++ [.directive .ackContinue, .irqDone] } ∧
        (s.rxLen + 1).toNat = s.rxLen.toNat + 1 ∧
        ∀ a, m.read a = if a = s.rxLen.toNat then some d else s.buf.read a) ∧
    (s.C ≤ s.rxLen.toNat →
      exec (.evRx d) s = .next { s with trace := s.trace ++ [.directive .nackWaitStart, .irqDone] })

/-- R120's count: of any bytes received in a row, as many are stored in order and acknowledged as fit, every later one is answered
NACK, and `rxLen` ends at the smaller of `C` and what was sent. -/
def Obligations.ReceivedBytesFillTheBufferAndNoMore : Prop :=
  ∀ (ds : List Byte) (s : State), s.rxLen.toNat ≤ s.C →
    ∃ t, execList (ds.map Instr.evRx) s = .next t ∧
      t.rxLen.toNat = min s.C (s.rxLen.toNat + ds.length) ∧
      t.trace = s.trace ++
        (List.replicate (min ds.length (s.C - s.rxLen.toNat)) [Output.directive .ackContinue, .irqDone]).flatten ++
        (List.replicate (ds.length - (s.C - s.rxLen.toNat)) [Output.directive .nackWaitStart, .irqDone]).flatten ∧
      (∀ a, t.buf.read a =
        if s.rxLen.toNat ≤ a ∧ a < t.rxLen.toNat then ds[a - s.rxLen.toNat]? else s.buf.read a) ∧
      t = { s with buf := t.buf, rxLen := t.rxLen, trace := t.trace }

/-- R121: a word with no flag ends its invocation and does nothing else. -/
def Obligations.NoneOnlyEndsTheInvocation : Prop :=
  (∀ (extp : Bool) (w : EventWord), w.extractLsb 13 9 = 0#5 → decodeEvent extp w = .evNone) ∧
  ∀ s : State, exec .evNone s = .next { s with trace := s.trace ++ [.irqDone] }

/-- The model's one fault (log entry 3): a read at an index at or above `C`. It is the only stop of any instruction, and no instruction
is refused. -/
def Obligations.OnlyAReadOutsideTheBufferStops : Prop :=
  (∀ s : State, s.txIdx.toNat < s.txLen.toNat → s.C ≤ s.txIdx.toNat →
    exec .evTx s = .fault .bufferIndexOutOfRange) ∧
  (∀ (i : Instr) (s : State), i = .deq ∨ i = .peek → s.burst = none →
    s.rxIdx.toNat < s.rxLen.toNat → s.C ≤ s.rxIdx.toNat → exec i s = .fault .bufferIndexOutOfRange) ∧
  (∀ (i : Instr) (s : State), (i ≠ .evTx ∨ s.txLen.toNat ≤ s.txIdx.toNat ∨ s.txIdx.toNat < s.C) →
    (i ≠ .deq ∧ i ≠ .peek ∨ s.burst ≠ none ∨ s.rxLen.toNat ≤ s.rxIdx.toNat ∨ s.rxIdx.toNat < s.C) →
    ∃ t, exec i s = .next t)

/-! ### Commands -/

/-- R152: `ENQ` writes its byte at `txLen` where there is room, and reports whether it did. -/
def Obligations.EnqAppendsOneByte : Prop :=
  (∀ c : CommandWord, c.extractLsb 15 12 = 0x1#4 → decodeCommand c = .enq (c.extractLsb 7 0)) ∧
  ∀ (b : Byte) (s : State), s.burst = none →
    (s.txLen.toNat < s.C →
      ∃ m, exec (.enq b) s = .next { s with
          buf := m, txLen := s.txLen + 1, trace := s.trace ++ [.response (.ok true)] } ∧
        (s.txLen + 1).toNat = s.txLen.toNat + 1 ∧
        ∀ a, m.read a = if a = s.txLen.toNat then some b else s.buf.read a) ∧
    (s.C ≤ s.txLen.toNat →
      exec (.enq b) s = .next { s with trace := s.trace ++ [.response (.ok false)] })

/-- R154: the header of a burst with n = 0 runs at once and counts 0; any other header opens the burst and responds nothing; a header
inside a burst closes it; and a beat that is not the last is kept and responds nothing. -/
def Obligations.EnqnHeaderAndBeatsKeepTheBurst : Prop :=
  (∀ (c : CommandWord), c.extractLsb 15 12 = 0x2#4 → decodeCommand c = .enqn (c.extractLsb 7 0)) ∧
  (∀ (n : Byte) (s : State), s.burst = none →
    (n = 0 → exec (.enqn n) s = .next { s with trace := s.trace ++ [.response (.count 0)] }) ∧
    (n ≠ 0 → exec (.enqn n) s = .next { s with burst := some ⟨n, []⟩ })) ∧
  (∀ (n : Byte) (s : State) (b : Burst), s.burst = some b →
    exec (.enqn n) s = .next { s with burst := none, trace := s.trace ++ [.response .ill] }) ∧
  (∀ (b n : Byte) (bytes : List Byte) (s : State), s.burst = some ⟨n, bytes⟩ → bytes.length + 1 ≠ n.toNat →
    exec (.beat b) s = .next { s with burst := some ⟨n, bytes ++ [b]⟩ })

/-- R153: with n = 0 the header counts 0; otherwise, at the last beat, the first `k = min(n, C - txLen)` bytes are written from `txLen`
on, in one step, and `k` is reported. -/
def Obligations.LastBeatWritesTheBurst : Prop :=
  (∀ s : State, s.burst = none → exec (.enqn 0) s = .next { s with trace := s.trace ++ [.response (.count 0)] }) ∧
  ∀ (b n : Byte) (bytes : List Byte) (s : State) (k : Nat), s.burst = some ⟨n, bytes⟩ →
    bytes.length + 1 = n.toNat → k = min n.toNat (s.C - s.txLen.toNat) →
    ∃ m, exec (.beat b) s = .next { s with
        buf := m, txLen := BitVec.ofNat 8 (s.txLen.toNat + k), burst := none
        trace := s.trace ++ [.response (.count (BitVec.ofNat 8 k))] } ∧
      (BitVec.ofNat 8 (s.txLen.toNat + k)).toNat = s.txLen.toNat + k ∧ (BitVec.ofNat 8 k).toNat = k ∧
      ∀ a, m.read a =
        if s.txLen.toNat ≤ a ∧ a < s.txLen.toNat + k then (bytes ++ [b])[a - s.txLen.toNat]? else s.buf.read a

/-- R84, R153, R154: a header and its beats, sent in a row, are one truncating enqueue: nothing but the last beat's step writes or
responds. -/
def Obligations.BurstIsOneTruncatingEnqueue : Prop :=
  ∀ (bs : List Byte) (s : State) (k : Nat), s.burst = none → 1 ≤ bs.length → bs.length ≤ 255 →
    k = min bs.length (s.C - s.txLen.toNat) →
    ∃ m, execList (.enqn (BitVec.ofNat 8 bs.length) :: bs.map Instr.beat) s = .next { s with
        buf := m, txLen := BitVec.ofNat 8 (s.txLen.toNat + k)
        trace := s.trace ++ [.response (.count (BitVec.ofNat 8 k))] } ∧
      ∀ a, m.read a =
        if s.txLen.toNat ≤ a ∧ a < s.txLen.toNat + k then bs[a - s.txLen.toNat]? else s.buf.read a

/-- R155: any word but a beat closes an open burst; its bytes and the arriving word are discarded, and a callback stays
outstanding. -/
def Obligations.OtherCommandsAbortTheBurst : Prop :=
  (∀ (c : CommandWord) (s : State) (b : Burst), c.extractLsb 15 12 ≠ 0xF#4 → s.burst = some b →
    exec (decodeCommand c) s = .next { s with burst := none, trace := s.trace ++ [.response .ill] }) ∧
  (∀ (i : Instr) (s : State) (b : Burst), i.isEvent = false → (∀ x, i ≠ .beat x) → s.burst = some b →
    exec i s = .next { s with burst := none, trace := s.trace ++ [.response .ill] })

/-- R162: a beat outside a burst is illegal. -/
def Obligations.StrayBeatIsIllegal : Prop :=
  (∀ c : CommandWord, c.extractLsb 15 12 = 0xF#4 → decodeCommand c = .beat (c.extractLsb 7 0)) ∧
  ∀ (b : Byte) (s : State), s.burst = none →
    exec (.beat b) s = .next { s with trace := s.trace ++ [.response .ill] }

/-- R161: a reserved opcode responds `Ill` and changes no state (inside a burst R155 applies). -/
def Obligations.ReservedOpcodesAreIllegal : Prop :=
  (∀ c : CommandWord,
    (c.extractLsb 15 12 = 0x0#4 → decodeCommand c = .reserved0) ∧ (c.extractLsb 15 12 = 0x9#4 → decodeCommand c = .reserved9) ∧
    (c.extractLsb 15 12 = 0xA#4 → decodeCommand c = .reservedA) ∧ (c.extractLsb 15 12 = 0xB#4 → decodeCommand c = .reservedB) ∧
    (c.extractLsb 15 12 = 0xC#4 → decodeCommand c = .reservedC) ∧ (c.extractLsb 15 12 = 0xD#4 → decodeCommand c = .reservedD) ∧
    (c.extractLsb 15 12 = 0xE#4 → decodeCommand c = .reservedE)) ∧
  ∀ (i : Instr) (s : State),
    i = .reserved0 ∨ i = .reserved9 ∨ i = .reservedA ∨ i = .reservedB ∨ i = .reservedC ∨ i = .reservedD ∨ i = .reservedE →
    (s.burst = none → exec i s = .next { s with trace := s.trace ++ [.response .ill] }) ∧
    (s.burst ≠ none → exec i s = .next { s with burst := none, trace := s.trace ++ [.response .ill] })

/-- R156: `DEQ` returns and consumes the byte at `rxIdx`, the one written last there, or reports empty. -/
def Obligations.DeqReturnsAndConsumes : Prop :=
  (∀ c : CommandWord, c.extractLsb 15 12 = 0x3#4 → decodeCommand c = .deq) ∧
  ∀ s : State, s.burst = none →
    (s.rxIdx.toNat < s.rxLen.toNat → s.rxIdx.toNat < s.C →
      ∃ b, bufRead s s.rxIdx.toNat = some b ∧ (∀ c, s.buf.read s.rxIdx.toNat = some c → b = c) ∧
        exec .deq s = .next { s with
          rxIdx := s.rxIdx + 1, trace := s.trace ++ [.response (.byte true b)] }) ∧
    (s.rxLen.toNat ≤ s.rxIdx.toNat →
      exec .deq s = .next { s with trace := s.trace ++ [.response (.byte false 0x00#8)] })

/-- R157, R59: `PEEK` returns the same byte and consumes nothing, so that a second `PEEK` in a row returns it again. -/
def Obligations.PeekReturnsAndKeeps : Prop :=
  (∀ c : CommandWord, c.extractLsb 15 12 = 0x4#4 → decodeCommand c = .peek) ∧
  ∀ s : State, s.burst = none →
    (s.rxIdx.toNat < s.rxLen.toNat → s.rxIdx.toNat < s.C →
      ∃ b, bufRead s s.rxIdx.toNat = some b ∧ (∀ c, s.buf.read s.rxIdx.toNat = some c → b = c) ∧
        exec .peek s = .next { s with trace := s.trace ++ [.response (.byte true b)] } ∧
        execList [.peek, .peek] s = .next { s with
          trace := s.trace ++ [.response (.byte true b), .response (.byte true b)] }) ∧
    (s.rxLen.toNat ≤ s.rxIdx.toNat →
      exec .peek s = .next { s with trace := s.trace ++ [.response (.byte false 0x00#8)] })

/-- R158: `AVAIL` reports the exact difference `rxLen - rxIdx`, which may be negative, in 9-bit two's complement. -/
def Obligations.AvailIsTheExactDifference : Prop :=
  (∀ c : CommandWord, c.extractLsb 15 12 = 0x5#4 → decodeCommand c = .avail) ∧
  ∀ s : State, s.burst = none →
    ∃ v : BitVec 9, exec .avail s = .next { s with trace := s.trace ++ [.response (.avail v)] } ∧
      v.toInt = (s.rxLen.toNat : Int) - (s.rxIdx.toNat : Int) ∧ -255 ≤ v.toInt ∧ v.toInt ≤ 255

/-- R159, R160: `SETCB` writes all four callback bits, and `SETIE` the event-enable bit. -/
def Obligations.SetcbAndSetieWriteTheirBits : Prop :=
  (∀ c : CommandWord, c.extractLsb 15 12 = 0x6#4 → decodeCommand c = .setcb (c.extractLsb 11 8)) ∧
  (∀ u : CommandWord, u.extractLsb 15 12 = 0x7#4 → decodeCommand u = .setie (u[0])) ∧
  ∀ (m : BitVec 4) (e : Bool) (s : State), s.burst = none →
    exec (.setcb m) s = .next { s with cben := m, trace := s.trace ++ [.response .ack] } ∧
    exec (.setie e) s = .next { s with ie := e, trace := s.trace ++ [.response .ack] }

/-- R86: outside a burst a command returns exactly one response, but for a header that opens a burst, which returns none (R154, log
entry 12); inside one, a beat returns none until the last, which returns one, and any other command one. -/
def Obligations.EachCommandReturnsOneResponse : Prop :=
  ∀ (i : Instr) (s t : State), i.isEvent = false → exec i s = .next t →
    ∃ items, t.trace = s.trace ++ items ∧
      items.countP Output.isResponse = if t.burst = none then 1 else 0

/-! ### Whole-machine rules -/

/-- R42: the values after reset, for every capacity; the buffer's contents are not among them. -/
def Obligations.ResetLeavesTheValuesOfTheSpec : Prop :=
  (∃ cap, State.reset = State.resetAt cap) ∧
  ∀ cap : Capacity, ∀ s : State, s = State.resetAt cap →
    s.rxIdx = 0#8 ∧ s.rxLen = 0#8 ∧ s.txIdx = 0#8 ∧ s.txLen = 0#8 ∧ s.sc = 0xFF#8 ∧ s.addr = 0#10 ∧ s.extp = false ∧
    s.xst = .idle ∧ s.evdir = false ∧ s.cben = 0b0000#4 ∧ s.ie = true ∧ s.cst = .ready ∧ s.burst = none ∧
    s.C = cap.val + 1 ∧ 1 ≤ s.C ∧ s.C ≤ 255

/-- R230 to R232: the reset input sets every element in one step, abandons a wait and an open burst, and emits nothing; a `CBRET` after it
is illegal. What the agents present is kept (log entry 6). -/
def Obligations.ResetInputAbandonsEverything : Prop :=
  ∀ (s : State) (rest : List PortWord),
    (s.cst ≠ .ready ∨ s.ie = false ∨ s.burst ≠ none ∨ s.evIn = []) → s.cmdIn = [] → s.timeline = .reset :: rest →
    ∃ t, step s = .next t ∧
      t.rxIdx = 0#8 ∧ t.rxLen = 0#8 ∧ t.txIdx = 0#8 ∧ t.txLen = 0#8 ∧ t.sc = 0xFF#8 ∧ t.addr = 0#10 ∧ t.extp = false ∧
      t.xst = .idle ∧ t.evdir = false ∧ t.cben = 0b0000#4 ∧ t.ie = true ∧ t.cst = .ready ∧ t.burst = none ∧
      t.trace = s.trace ∧ t.cap = s.cap ∧ t.evIn = s.evIn ∧ t.cmdIn = s.cmdIn ∧ t.timeline = rest ∧
      (∀ i, t.buf.read i = none) ∧
      ∀ acc, exec (.cbret acc) t = .next { t with trace := t.trace ++ [.response .ill] }

/-- The invariant holds after reset, for every capacity. -/
def Obligations.InvariantHoldsAtReset : Prop :=
  State.reset.Inv ∧ ∀ cap : Capacity, (State.resetAt cap).Inv

/-- R27, R33, R38, R39, R43, R50: every step keeps the invariant: the indices stay at most `C`, the buffer stays in its canonical form
(the model's, log entry 3) below `C`, every index below a length has been written, an open burst waits for a beat, and a suspended invocation waits in its
direction. -/
def Obligations.EveryStepKeepsTheInvariant : Prop :=
  ∀ s t : State, s.Inv → step s = .next t → t.Inv

/-- R200, R222: from a state that meets the invariant, no step stops the block. -/
def Obligations.NoStepStopsTheBlock : Prop :=
  ∀ s : State, s.Inv → ∃ t, step s = .next t ∧ t.Inv

/-- R43: the unspecified contents of the buffer after reset are never observed: two runs that differ only in the draw of those contents
emit the same outputs and agree in every state element but the draw (the model's own field, log entry 2). -/
def Obligations.ResetContentsAreNeverObserved : Prop :=
  ∀ (k draw : Nat) (s t : State), s.Inv → Host.Core.run core k s = .next t →
    ∃ draw', Host.Core.run core k { s with bufDraw := draw } = .next { t with bufDraw := draw' }

/-- R164: no command but `CBRET` (whose resumed segment belongs to the invocation, log entry 13) writes or reads the address
machine. -/
def Obligations.CommandsDoNotTouchTheAddressMachine : Prop :=
  ∀ (i : Instr) (s t : State), i.isEvent = false → (∀ acc, i ≠ .cbret acc) → exec i s = .next t →
    (t.sc = s.sc ∧ t.addr = s.addr ∧ t.extp = s.extp ∧ t.xst = s.xst ∧ t.evdir = s.evdir) ∧
    ∀ (sc : BitVec 8) (addr : BitVec 10) (extp : Bool) (xst : Xst) (evdir : Bool),
      exec i { s with sc := sc, addr := addr, extp := extp, xst := xst, evdir := evdir } =
        .next { t with sc := sc, addr := addr, extp := extp, xst := xst, evdir := evdir }

/-- R165: nothing reaches the bus by a command, except by a `CBRET` that resumes an invocation. -/
def Obligations.CommandsEmitNothingToTheBus : Prop :=
  ∀ (i : Instr) (s t : State), i.isEvent = false →
    ((∀ acc, i ≠ .cbret acc) ∨ s.cst = .ready ∨ s.burst ≠ none) → exec i s = .next t → busTrace t = busTrace s

/-- R126: an invocation neither writes `cben`, `ie` and `burst` nor reads `ie` and `burst`. -/
def Obligations.InvocationsLeaveControlAlone : Prop :=
  (∀ (i : Instr) (s t : State), i.isEvent = true → exec i s = .next t →
    (t.cben = s.cben ∧ t.ie = s.ie ∧ t.burst = s.burst) ∧
    ∀ (ie : Bool) (burst : Option Burst),
      exec i { s with ie := ie, burst := burst } = .next { t with ie := ie, burst := burst }) ∧
  (∀ (acc : Bool) (s t : State), s.burst = none → exec (.cbret acc) s = .next t →
    (t.cben = s.cben ∧ t.ie = s.ie ∧ t.burst = none) ∧
    ∀ ie : Bool, exec (.cbret acc) { s with ie := ie } = .next { t with ie := ie })

/-- R76, R122, R212: a segment of an invocation (an event in `READY`, or a `CBRET` that resumes one) either ends the invocation, with
`IrqDone` and `READY`, or suspends it at a callback, in that callback's wait state. -/
def Obligations.SegmentsEndOrSuspendTheInvocation : Prop :=
  ∀ (i : Instr) (s t : State),
    (i.isEvent = true ∧ s.cst = .ready) ∨ ((∃ acc, i = .cbret acc) ∧ s.cst ≠ .ready ∧ s.burst = none) →
    exec i s = .next t →
    ∃ items, t.trace = s.trace ++ items ∧
      ((t.cst = .ready ∧ EndsInvocation items) ∨
        ∃ kind : CallbackKind, t.cst = kind.waitState ∧ SuspendsInvocation items kind)

/-- R77: the codes of the four directives, of which no step issues `NACK_CONTINUE` or `ACK_WAIT_START`. -/
def Obligations.OnlyTwoDirectivesAreIssued : Prop :=
  (Directive.ackContinue.code = 0b00#2 ∧ Directive.nackContinue.code = 0b01#2 ∧
    Directive.ackWaitStart.code = 0b10#2 ∧ Directive.nackWaitStart.code = 0b11#2) ∧
  ∀ s t : State, step s = .next t →
    ∃ items, t.trace = s.trace ++ items ∧
      ∀ d, Output.directive d ∈ items → d = .ackContinue ∨ d = .nackWaitStart

/-- R207, R212, R213: while an invocation is suspended, only a `CBRET` outside a burst, or the reset input, changes the controller state;
and no command leaves `READY`. That the reset input acts only where no command is presented and it heads the timeline is the model's
choice (log entries 5 and 6): R230 and R231 put no such condition. -/
def Obligations.OnlyCbretOrResetEndsAWait : Prop :=
  (∀ s t : State, s.cst ≠ .ready → step s = .next t → t.cst ≠ s.cst →
    (∃ c cs, s.cmdIn = c :: cs ∧ s.burst = none ∧ c.extractLsb 15 12 = 0x8#4) ∨
    (∃ rest, s.cmdIn = [] ∧ s.timeline = .reset :: rest ∧ t.cst = .ready)) ∧
  (∀ (i : Instr) (s t : State), i.isEvent = false → s.cst = .ready → exec i s = .next t → t.cst = .ready)

/-- R30, R123: the start counter: a fresh address byte adds one, modulo 2^8; the end of a STOP, a bus error and a collision set it to the
sentinel; nothing else changes it; and an `ADDR` callback carries its value. -/
def Obligations.StartCounterLaw : Prop :=
  ∀ (i : Instr) (s t : State), exec i s = .next t →
    (t.sc =
      match i with
      | .evBerr | .evColl => 0xFF#8
      | .evAddr _ _ | .evAddrCont _ _ => if s.extp = true then s.sc else s.sc + 1
      | .evStop =>
        if s.xst = .tx ∧ s.cben[3] = true ∨ s.xst = .rx ∧ s.cben[1] = true then s.sc else 0xFF#8
      | .cbret _ => if s.burst = none ∧ (s.cst = .wRx ∨ s.cst = .wStop) then 0xFF#8 else s.sc
      | .evTx | .evRx _ | .evNone | .enq _ | .enqn _ | .deq | .peek | .avail | .setcb _ | .setie _ | .beat _ => s.sc
      | .reserved0 | .reserved9 | .reservedA | .reservedB | .reservedC | .reservedD | .reservedE => s.sc) ∧
    ∃ items, t.trace = s.trace ++ items ∧ ∀ sc, sc ∈ items.filterMap Output.addrCallbackCount → sc = t.sc

/-- R123: in one overall transaction of at most 128 address phases, 7-bit or 10-bit, accepted or rejected, the `ADDR` callbacks carry
0, 1, 2, … in order, one for each phase; and a STOP, a bus error or a collision brings the counter back to −1. -/
def Obligations.AddrCallbacksCountTheAddressPhases : Prop :=
  ∀ (ps : List AddressPhase) (s : State), ps.all AddressPhase.proper = true → ps.length ≤ 128 →
    s.sc = 0xFF#8 → s.cben = 0b0001#4 → s.extp = false → s.cst = .ready → s.burst = none →
    ∃ t items, execList (ps.flatMap AddressPhase.instrs) s = .next t ∧ t.trace = s.trace ++ items ∧
      (items.filterMap Output.addrCallbackCount).map BitVec.toInt = (List.range ps.length).map Int.ofNat ∧
      ∀ i, i = .evStop ∨ i = .evBerr ∨ i = .evColl → ∃ u, exec i t = .next u ∧ u.sc = 0xFF#8

/-- The source's round trip (95_test_vectors.md L1.5), R53: bytes enqueued in the `REQ` callback are sent in that order, and the next
TXDATA is an overrun. -/
def Obligations.TransmitSendsTheEnqueuedBytesInOrder : Prop :=
  ∀ (bs : List Byte) (acc : Bool) (s : State), s.cst = .wReq → s.burst = none → s.txLen = 0 → bs.length ≤ s.C →
    ∃ t, execList (bs.map Instr.enq ++ [.cbret acc] ++ List.replicate bs.length .evTx ++ [.evTx]) s = .next t ∧
      t.trace = s.trace ++ List.replicate bs.length (.response (.ok true)) ++
        [.response .ack, .directive .ackContinue, .irqDone] ++
        bs.flatMap (fun b => [.txByte b, .directive .ackContinue, .irqDone]) ++ [.directive .nackWaitStart, .irqDone]

/-- The source's scenario (95_test_vectors.md L1.8), R53: bytes received in a write transaction are announced at the STOP with their
count, and drained in the `RX` callback in the order they arrived, after which `DEQ` reports empty. -/
def Obligations.ReceiveDeliversTheBytesInOrder : Prop :=
  ∀ (ds : List Byte) (acc : Bool) (s : State), s.xst = .rx → s.cst = .ready → s.burst = none → s.rxLen = 0 →
    s.cben[1] = true → ds.length ≤ s.C →
    ∃ t, execList (ds.map Instr.evRx ++ [.evStop] ++ List.replicate ds.length .deq ++ [.deq, .cbret acc]) s = .next t ∧
      t.trace = s.trace ++ (List.replicate ds.length [Output.directive .ackContinue, .irqDone]).flatten ++
        [.callback .rx 0 0 (BitVec.ofNat 8 ds.length)] ++ ds.map (fun b => .response (.byte true b)) ++
        [.response (.byte false 0), .response .ack, .irqDone] ∧
      t.xst = .idle ∧ t.cst = .ready

/-- The buffer's form is canonical: two buffers in it that read alike at every index are the same list (log entry 3). -/
def Obligations.EqualBuffersAreEqualData : Prop :=
  ∀ m m' : Memory, Memory.wf m = true → Memory.wf m' = true → (∀ a, m.read a = m'.read a) → m = m'
end

