-- ==== Sys2Proof/Laws/Memory.lean ====
section
/-! SUPPORT. The laws of the buffer's list of written bytes: read after write, and that every operation keeps the canonical form and
the bound on its indices. -/

namespace Sys2Proof.Machine

@[simp] theorem Memory.read_nil (a : Nat) : Memory.read [] a = none := rfl

/-- A write is seen at its index and nowhere else. -/
theorem Memory.read_write (m : Memory) (a k : Nat) (b : Byte) :
    (Memory.write m a b).read k = if k = a then some b else m.read k := by
  induction m with
  | nil => simp [Memory.write, Memory.read]
  | cons cell m ih =>
    obtain ⟨j, c⟩ := cell
    simp only [Memory.write]
    split_ifs <;> simp only [Memory.read, ih] <;> split_ifs <;> first | rfl | omega

@[simp] theorem Memory.read_write_same (m : Memory) (a : Nat) (b : Byte) : (Memory.write m a b).read a = some b := by
  simp [Memory.read_write]

theorem Memory.read_write_other (m : Memory) {a k : Nat} (b : Byte) (h : k ≠ a) :
    (Memory.write m a b).read k = m.read k := by
  simp [Memory.read_write, h]

/-- A run of writes is seen at its indices, byte for byte, and nowhere else. -/
theorem Memory.read_writeAll (bs : List Byte) (m : Memory) (a k : Nat) :
    (Memory.writeAll m a bs).read k = if a ≤ k ∧ k < a + bs.length then bs[k - a]? else m.read k := by
  induction bs generalizing m a with
  | nil => simp [Memory.writeAll]
  | cons b bs ih =>
    simp only [Memory.writeAll, ih, Memory.read_write, List.length_cons]
    by_cases hk : k = a
    · subst hk; simp
    · by_cases h : a + 1 ≤ k ∧ k < a + 1 + bs.length
      · rw [if_pos h, if_pos (by omega), show k - a = (k - (a + 1)) + 1 by omega, List.getElem?_cons_succ]
      · rw [if_neg h, if_neg hk, if_neg (by omega)]

theorem Memory.wfAbove_write (m : Memory) {a i : Nat} (b : Byte) (h : a < i) (hm : Memory.wfAbove a m = true) :
    Memory.wfAbove a (m.write i b) = true := by
  induction m generalizing a with
  | nil => simp [Memory.write, Memory.wfAbove, h]
  | cons cell m ih =>
    obtain ⟨j, c⟩ := cell
    simp only [Memory.wfAbove, Bool.and_eq_true, decide_eq_true_eq] at hm
    simp only [Memory.write]
    split_ifs with h1 h2
    · simp [Memory.wfAbove, h, h1, hm.2]
    · subst h2; simp [Memory.wfAbove, h, hm.2]
    · simp only [Memory.wfAbove, Bool.and_eq_true, decide_eq_true_eq]
      exact ⟨hm.1, ih (by omega) hm.2⟩

/-- A write keeps the canonical form. -/
theorem Memory.wf_write (m : Memory) (i : Nat) (b : Byte) (hm : Memory.wf m = true) : Memory.wf (m.write i b) = true := by
  cases m with
  | nil => rfl
  | cons cell m =>
    obtain ⟨j, c⟩ := cell
    simp only [Memory.wf] at hm
    simp only [Memory.write]
    split_ifs with h1 h2
    · simp [Memory.wf, Memory.wfAbove, h1, hm]
    · subst h2; simpa [Memory.wf] using hm
    · exact Memory.wfAbove_write m b (by omega) hm

/-- A run of writes keeps the canonical form. -/
theorem Memory.wf_writeAll (bs : List Byte) (m : Memory) (i : Nat) (hm : Memory.wf m = true) :
    Memory.wf (m.writeAll i bs) = true := by
  induction bs generalizing m i with
  | nil => exact hm
  | cons b bs ih => exact ih _ _ (Memory.wf_write m i b hm)

/-- A write below `c` keeps the indices below `c`. -/
theorem Memory.below_write (m : Memory) {c i : Nat} (b : Byte) (hi : i < c) (hm : Memory.below c m = true) :
    Memory.below c (m.write i b) = true := by
  induction m with
  | nil => simp [Memory.write, Memory.below, hi]
  | cons cell m ih =>
    obtain ⟨j, d⟩ := cell
    simp only [Memory.below, List.all_cons, Bool.and_eq_true, decide_eq_true_eq] at hm ih
    simp only [Memory.write]
    split_ifs <;> simp only [Memory.below, List.all_cons, Bool.and_eq_true, decide_eq_true_eq]
    · exact ⟨hi, hm⟩
    · exact ⟨hi, hm.2⟩
    · exact ⟨hm.1, ih hm.2⟩

/-- A run of writes that ends at or below `c` keeps the indices below `c`. -/
theorem Memory.below_writeAll (bs : List Byte) (m : Memory) {c i : Nat} (hi : i + bs.length ≤ c)
    (hm : Memory.below c m = true) : Memory.below c (m.writeAll i bs) = true := by
  induction bs generalizing m i with
  | nil => exact hm
  | cons b bs ih =>
    simp only [List.length_cons] at hi
    exact ih _ (by omega) (Memory.below_write m b (by omega) hm)

/-- The buffer at reset is in canonical form. -/
theorem reset_buffer_wf : Memory.wf State.reset.buf = true := rfl

end Sys2Proof.Machine
end

