-- ==== Sys2Proof/Laws/State.lean ====
section
/-! SUPPORT. For each update of the state that the shared operations make, one lemma per field, true by definition, so that no proof
unfolds a record update; and the capacity and the buffer's reads under each update. -/

namespace Sys2Proof.Machine

/-! ### emit -/

@[simp] theorem emit_cap (o : Output) (s : State) : (emit o s).cap = s.cap := rfl
@[simp] theorem emit_buf (o : Output) (s : State) : (emit o s).buf = s.buf := rfl
@[simp] theorem emit_bufDraw (o : Output) (s : State) : (emit o s).bufDraw = s.bufDraw := rfl
@[simp] theorem emit_rxIdx (o : Output) (s : State) : (emit o s).rxIdx = s.rxIdx := rfl
@[simp] theorem emit_rxLen (o : Output) (s : State) : (emit o s).rxLen = s.rxLen := rfl
@[simp] theorem emit_txIdx (o : Output) (s : State) : (emit o s).txIdx = s.txIdx := rfl
@[simp] theorem emit_txLen (o : Output) (s : State) : (emit o s).txLen = s.txLen := rfl
@[simp] theorem emit_sc (o : Output) (s : State) : (emit o s).sc = s.sc := rfl
@[simp] theorem emit_addr (o : Output) (s : State) : (emit o s).addr = s.addr := rfl
@[simp] theorem emit_extp (o : Output) (s : State) : (emit o s).extp = s.extp := rfl
@[simp] theorem emit_xst (o : Output) (s : State) : (emit o s).xst = s.xst := rfl
@[simp] theorem emit_evdir (o : Output) (s : State) : (emit o s).evdir = s.evdir := rfl
@[simp] theorem emit_cben (o : Output) (s : State) : (emit o s).cben = s.cben := rfl
@[simp] theorem emit_ie (o : Output) (s : State) : (emit o s).ie = s.ie := rfl
@[simp] theorem emit_cst (o : Output) (s : State) : (emit o s).cst = s.cst := rfl
@[simp] theorem emit_burst (o : Output) (s : State) : (emit o s).burst = s.burst := rfl
@[simp] theorem emit_trace (o : Output) (s : State) : (emit o s).trace = s.trace ++ [o] := rfl
@[simp] theorem emit_evIn (o : Output) (s : State) : (emit o s).evIn = s.evIn := rfl
@[simp] theorem emit_cmdIn (o : Output) (s : State) : (emit o s).cmdIn = s.cmdIn := rfl
@[simp] theorem emit_timeline (o : Output) (s : State) : (emit o s).timeline = s.timeline := rfl
@[simp] theorem emit_C (o : Output) (s : State) : (emit o s).C = s.C := rfl

/-! ### respond -/

@[simp] theorem respond_cap (r : Response) (s : State) : (respond r s).cap = s.cap := rfl
@[simp] theorem respond_buf (r : Response) (s : State) : (respond r s).buf = s.buf := rfl
@[simp] theorem respond_bufDraw (r : Response) (s : State) : (respond r s).bufDraw = s.bufDraw := rfl
@[simp] theorem respond_rxIdx (r : Response) (s : State) : (respond r s).rxIdx = s.rxIdx := rfl
@[simp] theorem respond_rxLen (r : Response) (s : State) : (respond r s).rxLen = s.rxLen := rfl
@[simp] theorem respond_txIdx (r : Response) (s : State) : (respond r s).txIdx = s.txIdx := rfl
@[simp] theorem respond_txLen (r : Response) (s : State) : (respond r s).txLen = s.txLen := rfl
@[simp] theorem respond_sc (r : Response) (s : State) : (respond r s).sc = s.sc := rfl
@[simp] theorem respond_addr (r : Response) (s : State) : (respond r s).addr = s.addr := rfl
@[simp] theorem respond_extp (r : Response) (s : State) : (respond r s).extp = s.extp := rfl
@[simp] theorem respond_xst (r : Response) (s : State) : (respond r s).xst = s.xst := rfl
@[simp] theorem respond_evdir (r : Response) (s : State) : (respond r s).evdir = s.evdir := rfl
@[simp] theorem respond_cben (r : Response) (s : State) : (respond r s).cben = s.cben := rfl
@[simp] theorem respond_ie (r : Response) (s : State) : (respond r s).ie = s.ie := rfl
@[simp] theorem respond_cst (r : Response) (s : State) : (respond r s).cst = s.cst := rfl
@[simp] theorem respond_burst (r : Response) (s : State) : (respond r s).burst = s.burst := rfl
@[simp] theorem respond_trace (r : Response) (s : State) : (respond r s).trace = s.trace ++ [.response r] := rfl
@[simp] theorem respond_evIn (r : Response) (s : State) : (respond r s).evIn = s.evIn := rfl
@[simp] theorem respond_cmdIn (r : Response) (s : State) : (respond r s).cmdIn = s.cmdIn := rfl
@[simp] theorem respond_timeline (r : Response) (s : State) : (respond r s).timeline = s.timeline := rfl
@[simp] theorem respond_C (r : Response) (s : State) : (respond r s).C = s.C := rfl

/-! ### bufWrite -/

@[simp] theorem bufWrite_cap (i : Nat) (b : Byte) (s : State) : (bufWrite i b s).cap = s.cap := rfl
@[simp] theorem bufWrite_buf (i : Nat) (b : Byte) (s : State) : (bufWrite i b s).buf = s.buf.write i b := rfl
@[simp] theorem bufWrite_bufDraw (i : Nat) (b : Byte) (s : State) : (bufWrite i b s).bufDraw = s.bufDraw := rfl
@[simp] theorem bufWrite_rxIdx (i : Nat) (b : Byte) (s : State) : (bufWrite i b s).rxIdx = s.rxIdx := rfl
@[simp] theorem bufWrite_rxLen (i : Nat) (b : Byte) (s : State) : (bufWrite i b s).rxLen = s.rxLen := rfl
@[simp] theorem bufWrite_txIdx (i : Nat) (b : Byte) (s : State) : (bufWrite i b s).txIdx = s.txIdx := rfl
@[simp] theorem bufWrite_txLen (i : Nat) (b : Byte) (s : State) : (bufWrite i b s).txLen = s.txLen := rfl
@[simp] theorem bufWrite_sc (i : Nat) (b : Byte) (s : State) : (bufWrite i b s).sc = s.sc := rfl
@[simp] theorem bufWrite_addr (i : Nat) (b : Byte) (s : State) : (bufWrite i b s).addr = s.addr := rfl
@[simp] theorem bufWrite_extp (i : Nat) (b : Byte) (s : State) : (bufWrite i b s).extp = s.extp := rfl
@[simp] theorem bufWrite_xst (i : Nat) (b : Byte) (s : State) : (bufWrite i b s).xst = s.xst := rfl
@[simp] theorem bufWrite_evdir (i : Nat) (b : Byte) (s : State) : (bufWrite i b s).evdir = s.evdir := rfl
@[simp] theorem bufWrite_cben (i : Nat) (b : Byte) (s : State) : (bufWrite i b s).cben = s.cben := rfl
@[simp] theorem bufWrite_ie (i : Nat) (b : Byte) (s : State) : (bufWrite i b s).ie = s.ie := rfl
@[simp] theorem bufWrite_cst (i : Nat) (b : Byte) (s : State) : (bufWrite i b s).cst = s.cst := rfl
@[simp] theorem bufWrite_burst (i : Nat) (b : Byte) (s : State) : (bufWrite i b s).burst = s.burst := rfl
@[simp] theorem bufWrite_trace (i : Nat) (b : Byte) (s : State) : (bufWrite i b s).trace = s.trace := rfl
@[simp] theorem bufWrite_evIn (i : Nat) (b : Byte) (s : State) : (bufWrite i b s).evIn = s.evIn := rfl
@[simp] theorem bufWrite_cmdIn (i : Nat) (b : Byte) (s : State) : (bufWrite i b s).cmdIn = s.cmdIn := rfl
@[simp] theorem bufWrite_timeline (i : Nat) (b : Byte) (s : State) : (bufWrite i b s).timeline = s.timeline := rfl
@[simp] theorem bufWrite_C (i : Nat) (b : Byte) (s : State) : (bufWrite i b s).C = s.C := rfl

/-! ### bufWriteAll -/

@[simp] theorem bufWriteAll_cap (i : Nat) (bs : List Byte) (s : State) : (bufWriteAll i bs s).cap = s.cap := rfl
@[simp] theorem bufWriteAll_buf (i : Nat) (bs : List Byte) (s : State) : (bufWriteAll i bs s).buf = s.buf.writeAll i bs := rfl
@[simp] theorem bufWriteAll_bufDraw (i : Nat) (bs : List Byte) (s : State) : (bufWriteAll i bs s).bufDraw = s.bufDraw := rfl
@[simp] theorem bufWriteAll_rxIdx (i : Nat) (bs : List Byte) (s : State) : (bufWriteAll i bs s).rxIdx = s.rxIdx := rfl
@[simp] theorem bufWriteAll_rxLen (i : Nat) (bs : List Byte) (s : State) : (bufWriteAll i bs s).rxLen = s.rxLen := rfl
@[simp] theorem bufWriteAll_txIdx (i : Nat) (bs : List Byte) (s : State) : (bufWriteAll i bs s).txIdx = s.txIdx := rfl
@[simp] theorem bufWriteAll_txLen (i : Nat) (bs : List Byte) (s : State) : (bufWriteAll i bs s).txLen = s.txLen := rfl
@[simp] theorem bufWriteAll_sc (i : Nat) (bs : List Byte) (s : State) : (bufWriteAll i bs s).sc = s.sc := rfl
@[simp] theorem bufWriteAll_addr (i : Nat) (bs : List Byte) (s : State) : (bufWriteAll i bs s).addr = s.addr := rfl
@[simp] theorem bufWriteAll_extp (i : Nat) (bs : List Byte) (s : State) : (bufWriteAll i bs s).extp = s.extp := rfl
@[simp] theorem bufWriteAll_xst (i : Nat) (bs : List Byte) (s : State) : (bufWriteAll i bs s).xst = s.xst := rfl
@[simp] theorem bufWriteAll_evdir (i : Nat) (bs : List Byte) (s : State) : (bufWriteAll i bs s).evdir = s.evdir := rfl
@[simp] theorem bufWriteAll_cben (i : Nat) (bs : List Byte) (s : State) : (bufWriteAll i bs s).cben = s.cben := rfl
@[simp] theorem bufWriteAll_ie (i : Nat) (bs : List Byte) (s : State) : (bufWriteAll i bs s).ie = s.ie := rfl
@[simp] theorem bufWriteAll_cst (i : Nat) (bs : List Byte) (s : State) : (bufWriteAll i bs s).cst = s.cst := rfl
@[simp] theorem bufWriteAll_burst (i : Nat) (bs : List Byte) (s : State) : (bufWriteAll i bs s).burst = s.burst := rfl
@[simp] theorem bufWriteAll_trace (i : Nat) (bs : List Byte) (s : State) : (bufWriteAll i bs s).trace = s.trace := rfl
@[simp] theorem bufWriteAll_evIn (i : Nat) (bs : List Byte) (s : State) : (bufWriteAll i bs s).evIn = s.evIn := rfl
@[simp] theorem bufWriteAll_cmdIn (i : Nat) (bs : List Byte) (s : State) : (bufWriteAll i bs s).cmdIn = s.cmdIn := rfl
@[simp] theorem bufWriteAll_timeline (i : Nat) (bs : List Byte) (s : State) : (bufWriteAll i bs s).timeline = s.timeline := rfl
@[simp] theorem bufWriteAll_C (i : Nat) (bs : List Byte) (s : State) : (bufWriteAll i bs s).C = s.C := rfl

/-! ### endInvocation -/

@[simp] theorem endInvocation_cap (s : State) : (endInvocation s).cap = s.cap := rfl
@[simp] theorem endInvocation_buf (s : State) : (endInvocation s).buf = s.buf := rfl
@[simp] theorem endInvocation_bufDraw (s : State) : (endInvocation s).bufDraw = s.bufDraw := rfl
@[simp] theorem endInvocation_rxIdx (s : State) : (endInvocation s).rxIdx = s.rxIdx := rfl
@[simp] theorem endInvocation_rxLen (s : State) : (endInvocation s).rxLen = s.rxLen := rfl
@[simp] theorem endInvocation_txIdx (s : State) : (endInvocation s).txIdx = s.txIdx := rfl
@[simp] theorem endInvocation_txLen (s : State) : (endInvocation s).txLen = s.txLen := rfl
@[simp] theorem endInvocation_sc (s : State) : (endInvocation s).sc = s.sc := rfl
@[simp] theorem endInvocation_addr (s : State) : (endInvocation s).addr = s.addr := rfl
@[simp] theorem endInvocation_extp (s : State) : (endInvocation s).extp = s.extp := rfl
@[simp] theorem endInvocation_xst (s : State) : (endInvocation s).xst = s.xst := rfl
@[simp] theorem endInvocation_evdir (s : State) : (endInvocation s).evdir = s.evdir := rfl
@[simp] theorem endInvocation_cben (s : State) : (endInvocation s).cben = s.cben := rfl
@[simp] theorem endInvocation_ie (s : State) : (endInvocation s).ie = s.ie := rfl
@[simp] theorem endInvocation_cst (s : State) : (endInvocation s).cst = s.cst := rfl
@[simp] theorem endInvocation_burst (s : State) : (endInvocation s).burst = s.burst := rfl
@[simp] theorem endInvocation_trace (s : State) : (endInvocation s).trace = s.trace ++ [.irqDone] := rfl
@[simp] theorem endInvocation_evIn (s : State) : (endInvocation s).evIn = s.evIn := rfl
@[simp] theorem endInvocation_cmdIn (s : State) : (endInvocation s).cmdIn = s.cmdIn := rfl
@[simp] theorem endInvocation_timeline (s : State) : (endInvocation s).timeline = s.timeline := rfl
@[simp] theorem endInvocation_C (s : State) : (endInvocation s).C = s.C := rfl

/-! ### returnReady -/

@[simp] theorem returnReady_cap (s : State) : (returnReady s).cap = s.cap := rfl
@[simp] theorem returnReady_buf (s : State) : (returnReady s).buf = s.buf := rfl
@[simp] theorem returnReady_bufDraw (s : State) : (returnReady s).bufDraw = s.bufDraw := rfl
@[simp] theorem returnReady_rxIdx (s : State) : (returnReady s).rxIdx = s.rxIdx := rfl
@[simp] theorem returnReady_rxLen (s : State) : (returnReady s).rxLen = s.rxLen := rfl
@[simp] theorem returnReady_txIdx (s : State) : (returnReady s).txIdx = s.txIdx := rfl
@[simp] theorem returnReady_txLen (s : State) : (returnReady s).txLen = s.txLen := rfl
@[simp] theorem returnReady_sc (s : State) : (returnReady s).sc = s.sc := rfl
@[simp] theorem returnReady_addr (s : State) : (returnReady s).addr = s.addr := rfl
@[simp] theorem returnReady_extp (s : State) : (returnReady s).extp = s.extp := rfl
@[simp] theorem returnReady_xst (s : State) : (returnReady s).xst = s.xst := rfl
@[simp] theorem returnReady_evdir (s : State) : (returnReady s).evdir = s.evdir := rfl
@[simp] theorem returnReady_cben (s : State) : (returnReady s).cben = s.cben := rfl
@[simp] theorem returnReady_ie (s : State) : (returnReady s).ie = s.ie := rfl
@[simp] theorem returnReady_cst (s : State) : (returnReady s).cst = .ready := rfl
@[simp] theorem returnReady_burst (s : State) : (returnReady s).burst = s.burst := rfl
@[simp] theorem returnReady_trace (s : State) : (returnReady s).trace = s.trace ++ [.irqDone] := rfl
@[simp] theorem returnReady_evIn (s : State) : (returnReady s).evIn = s.evIn := rfl
@[simp] theorem returnReady_cmdIn (s : State) : (returnReady s).cmdIn = s.cmdIn := rfl
@[simp] theorem returnReady_timeline (s : State) : (returnReady s).timeline = s.timeline := rfl
@[simp] theorem returnReady_C (s : State) : (returnReady s).C = s.C := rfl

/-! ### dispatchCallback -/

@[simp] theorem dispatchCallback_cap (k : CallbackKind) (a : BitVec 10) (c l : Byte) (s : State) : (dispatchCallback k a c l s).cap = s.cap := rfl
@[simp] theorem dispatchCallback_buf (k : CallbackKind) (a : BitVec 10) (c l : Byte) (s : State) : (dispatchCallback k a c l s).buf = s.buf := rfl
@[simp] theorem dispatchCallback_bufDraw (k : CallbackKind) (a : BitVec 10) (c l : Byte) (s : State) : (dispatchCallback k a c l s).bufDraw = s.bufDraw := rfl
@[simp] theorem dispatchCallback_rxIdx (k : CallbackKind) (a : BitVec 10) (c l : Byte) (s : State) : (dispatchCallback k a c l s).rxIdx = s.rxIdx := rfl
@[simp] theorem dispatchCallback_rxLen (k : CallbackKind) (a : BitVec 10) (c l : Byte) (s : State) : (dispatchCallback k a c l s).rxLen = s.rxLen := rfl
@[simp] theorem dispatchCallback_txIdx (k : CallbackKind) (a : BitVec 10) (c l : Byte) (s : State) : (dispatchCallback k a c l s).txIdx = s.txIdx := rfl
@[simp] theorem dispatchCallback_txLen (k : CallbackKind) (a : BitVec 10) (c l : Byte) (s : State) : (dispatchCallback k a c l s).txLen = s.txLen := rfl
@[simp] theorem dispatchCallback_sc (k : CallbackKind) (a : BitVec 10) (c l : Byte) (s : State) : (dispatchCallback k a c l s).sc = s.sc := rfl
@[simp] theorem dispatchCallback_addr (k : CallbackKind) (a : BitVec 10) (c l : Byte) (s : State) : (dispatchCallback k a c l s).addr = s.addr := rfl
@[simp] theorem dispatchCallback_extp (k : CallbackKind) (a : BitVec 10) (c l : Byte) (s : State) : (dispatchCallback k a c l s).extp = s.extp := rfl
@[simp] theorem dispatchCallback_xst (k : CallbackKind) (a : BitVec 10) (c l : Byte) (s : State) : (dispatchCallback k a c l s).xst = s.xst := rfl
@[simp] theorem dispatchCallback_evdir (k : CallbackKind) (a : BitVec 10) (c l : Byte) (s : State) : (dispatchCallback k a c l s).evdir = s.evdir := rfl
@[simp] theorem dispatchCallback_cben (k : CallbackKind) (a : BitVec 10) (c l : Byte) (s : State) : (dispatchCallback k a c l s).cben = s.cben := rfl
@[simp] theorem dispatchCallback_ie (k : CallbackKind) (a : BitVec 10) (c l : Byte) (s : State) : (dispatchCallback k a c l s).ie = s.ie := rfl
@[simp] theorem dispatchCallback_cst (k : CallbackKind) (a : BitVec 10) (c l : Byte) (s : State) : (dispatchCallback k a c l s).cst = k.waitState := rfl
@[simp] theorem dispatchCallback_burst (k : CallbackKind) (a : BitVec 10) (c l : Byte) (s : State) : (dispatchCallback k a c l s).burst = s.burst := rfl
@[simp] theorem dispatchCallback_trace (k : CallbackKind) (a : BitVec 10) (c l : Byte) (s : State) : (dispatchCallback k a c l s).trace = s.trace ++ [.callback k a c l] := rfl
@[simp] theorem dispatchCallback_evIn (k : CallbackKind) (a : BitVec 10) (c l : Byte) (s : State) : (dispatchCallback k a c l s).evIn = s.evIn := rfl
@[simp] theorem dispatchCallback_cmdIn (k : CallbackKind) (a : BitVec 10) (c l : Byte) (s : State) : (dispatchCallback k a c l s).cmdIn = s.cmdIn := rfl
@[simp] theorem dispatchCallback_timeline (k : CallbackKind) (a : BitVec 10) (c l : Byte) (s : State) : (dispatchCallback k a c l s).timeline = s.timeline := rfl
@[simp] theorem dispatchCallback_C (k : CallbackKind) (a : BitVec 10) (c l : Byte) (s : State) : (dispatchCallback k a c l s).C = s.C := rfl

/-! ### resetInput -/

@[simp] theorem resetInput_cap (s : State) : (resetInput s).cap = s.cap := rfl
@[simp] theorem resetInput_buf (s : State) : (resetInput s).buf = [] := rfl
@[simp] theorem resetInput_bufDraw (s : State) : (resetInput s).bufDraw = s.bufDraw + 1 := rfl
@[simp] theorem resetInput_rxIdx (s : State) : (resetInput s).rxIdx = 0 := rfl
@[simp] theorem resetInput_rxLen (s : State) : (resetInput s).rxLen = 0 := rfl
@[simp] theorem resetInput_txIdx (s : State) : (resetInput s).txIdx = 0 := rfl
@[simp] theorem resetInput_txLen (s : State) : (resetInput s).txLen = 0 := rfl
@[simp] theorem resetInput_sc (s : State) : (resetInput s).sc = -1 := rfl
@[simp] theorem resetInput_addr (s : State) : (resetInput s).addr = 0 := rfl
@[simp] theorem resetInput_extp (s : State) : (resetInput s).extp = false := rfl
@[simp] theorem resetInput_xst (s : State) : (resetInput s).xst = .idle := rfl
@[simp] theorem resetInput_evdir (s : State) : (resetInput s).evdir = false := rfl
@[simp] theorem resetInput_cben (s : State) : (resetInput s).cben = 0 := rfl
@[simp] theorem resetInput_ie (s : State) : (resetInput s).ie = true := rfl
@[simp] theorem resetInput_cst (s : State) : (resetInput s).cst = .ready := rfl
@[simp] theorem resetInput_burst (s : State) : (resetInput s).burst = none := rfl
@[simp] theorem resetInput_trace (s : State) : (resetInput s).trace = s.trace := rfl
@[simp] theorem resetInput_evIn (s : State) : (resetInput s).evIn = s.evIn := rfl
@[simp] theorem resetInput_cmdIn (s : State) : (resetInput s).cmdIn = s.cmdIn := rfl
@[simp] theorem resetInput_timeline (s : State) : (resetInput s).timeline = s.timeline := rfl
@[simp] theorem resetInput_C (s : State) : (resetInput s).C = s.C := rfl

end Sys2Proof.Machine
end

