-- ==== Sys2Proof/Laws/Ops.lean ====
section
/-! SUPPORT. One lemma for each shared operation that says once everything it does: the whole next state of the parts of an
invocation, what a buffer read answers, and what the command guard does. Callers cite these and do not unfold the operation. -/

namespace Sys2Proof.Machine

/-! ### The capacity and the conditions -/

theorem State.C_pos (s : State) : 1 ≤ s.C := by simp [State.C, Capacity.bytes]

theorem State.C_le (s : State) : s.C ≤ 255 := by
  have := s.cap.isLt
  simp only [State.C, Capacity.bytes]; omega

@[simp] theorem acceptsEvent_iff (s : State) : acceptsEvent s = true ↔ s.cst = .ready ∧ s.ie = true ∧ s.burst = none := by
  simp [acceptsEvent, and_assoc]

@[simp] theorem rxUnread_iff (s : State) : rxUnread s = true ↔ s.rxIdx.toNat < s.rxLen.toNat := by simp [rxUnread]

@[simp] theorem rxHasRoom_iff (s : State) : rxHasRoom s = true ↔ s.rxLen.toNat < s.C := by simp [rxHasRoom]

@[simp] theorem txUnsent_iff (s : State) : txUnsent s = true ↔ s.txIdx.toNat < s.txLen.toNat := by simp [txUnsent]

@[simp] theorem txHasRoom_iff (s : State) : txHasRoom s = true ↔ s.txLen.toNat < s.C := by simp [txHasRoom]

@[simp] theorem callbackPresent_addr (s : State) : callbackPresent .addr s = s.cben[0] := rfl

@[simp] theorem callbackPresent_rx (s : State) : callbackPresent .rx s = s.cben[1] := rfl

@[simp] theorem callbackPresent_req (s : State) : callbackPresent .req s = s.cben[2] := rfl

@[simp] theorem callbackPresent_stop (s : State) : callbackPresent .stop s = s.cben[3] := rfl

/-- An index below a bound of at most 255 advances by one exactly (R28). -/
theorem index_succ_toNat (x : Index) {n : Nat} (h : x.toNat < n) (hn : n ≤ 255) : (x + 1).toNat = x.toNat + 1 := by
  rw [BitVec.toNat_add]; simp; omega

/-- What can be staged never carries `txLen` past 255 (R28). -/
theorem txLen_add_stageable (n : Byte) (s : State) :
    (BitVec.ofNat 8 (s.txLen.toNat + stageable n s)).toNat = s.txLen.toNat + stageable n s := by
  have h1 := s.C_le
  have h2 := s.txLen.isLt
  simp only [BitVec.toNat_ofNat, stageable]
  omega

/-! ### Reads of the buffer -/

/-- Below `C` a read answers, and answers the written byte where one is written (R42, R43). -/
theorem bufRead_some (s : State) {i : Nat} (h : i < s.C) :
    ∃ b, bufRead s i = some b ∧ ∀ c, s.buf.read i = some c → b = c := by
  refine ⟨(s.buf.read i).getD (Config.drawnByte s.bufDraw i), by simp [bufRead, h], ?_⟩
  intro c hc
  simp [hc]

theorem bufRead_written (s : State) {i : Nat} {c : Byte} (h : i < s.C) (hc : s.buf.read i = some c) :
    bufRead s i = some c := by
  simp [bufRead, h, hc]

theorem bufRead_outside (s : State) {i : Nat} (h : s.C ≤ i) : bufRead s i = none := by
  simp [bufRead, Nat.not_lt.mpr h]

/-! ### The parts of an invocation -/

theorem directiveAndEnd_eq (d : Directive) (s : State) :
    directiveAndEnd d s = { s with trace := s.trace ++ [.directive d, .irqDone] } := by
  simp [directiveAndEnd, endInvocation, emit]

theorem directiveAndReturn_eq (d : Directive) (s : State) :
    directiveAndReturn d s = { s with cst := .ready, trace := s.trace ++ [.directive d, .irqDone] } := by
  simp [directiveAndReturn, returnReady, endInvocation, emit]

theorem reject_eq (s : State) :
    reject s = { s with xst := .idle, cst := .ready, trace := s.trace ++ [.directive .nackWaitStart, .irqDone] } := by
  simp [reject, directiveAndReturn_eq]

theorem acceptWrite_eq (s : State) : acceptWrite s =
    { s with xst := .rx, rxLen := 0, cst := .ready, trace := s.trace ++ [.directive .ackContinue, .irqDone] } := by
  simp [acceptWrite, directiveAndReturn_eq]

theorem finishRead_eq (s : State) : finishRead s =
    { s with txIdx := 0, cst := .ready, trace := s.trace ++ [.directive .ackContinue, .irqDone] } := by
  simp [finishRead, directiveAndReturn_eq]

theorem acceptRead_eq (s : State) : acceptRead s =
    if s.cben[2] then
      { s with xst := .tx, txLen := 0, cst := .wReq, trace := s.trace ++ [.callback .req 0 0 0] }
    else
      { s with xst := .tx, txLen := 0, txIdx := 0, cst := .ready, trace := s.trace ++ [.directive .ackContinue, .irqDone] } := by
  simp only [acceptRead, finishRead_eq]
  rfl

theorem finishStop_eq (s : State) : finishStop s =
    { s with sc := noStartYet, extp := false, xst := .idle, cst := .ready, trace := s.trace ++ [.irqDone] } := rfl

theorem errorEvent_eq (s : State) : errorEvent s =
    { s with sc := noStartYet, extp := false, xst := .idle, trace := s.trace ++ [.errClr, .irqDone] } := by
  simp [errorEvent, endInvocation, emit]

theorem tenBitFirstByte_eq (s : State) : tenBitFirstByte s =
    { s with extp := true, trace := s.trace ++ [.directive .ackContinue, .irqDone] } := by
  simp [tenBitFirstByte, directiveAndEnd_eq]

theorem dispatchAddress_eq (a : BitVec 10) (s : State) : dispatchAddress a s =
    if s.cben[0] then { s with cst := .wAddr, trace := s.trace ++ [.callback .addr a s.sc 0] }
    else if s.evdir then acceptRead s else acceptWrite s := by
  cases h : s.evdir <;> simp [dispatchAddress, addressDecision, dispatchCallback, emit, CallbackKind.waitState, h]

theorem stopAfterReceive_eq (s : State) : stopAfterReceive s =
    if s.cben[1] then { s with rxIdx := 0, cst := .wRx, trace := s.trace ++ [.callback .rx 0 0 s.rxLen] }
    else finishStop { s with rxIdx := 0 } := rfl

/-! ### The command guard (R155) -/

theorem command_open (run : State → Host.Outcome State Fault Refusal) (s : State) {b : Burst} (h : s.burst = some b) :
    command run s = .next { s with burst := none, trace := s.trace ++ [.response .ill] } := by
  simp [command, h, respond, emit]

theorem command_closed (run : State → Host.Outcome State Fault Refusal) (s : State) (h : s.burst = none) :
    command run s = run s := by
  simp [command, h]

end Sys2Proof.Machine
end

