-- ==== Sys2Proof/Laws/Commands.lean ====
section
/-! SUPPORT. What a data phase and a command can do, said once: the outcome of the instructions that read the buffer or fill it, with
their conditions spelt out, and the next states of every command but `CBRET`. -/

namespace Sys2Proof.Machine

/-! ### Data phases -/

/-- TXDATA sends the byte read, or sends nothing (R117, R118). -/
theorem exec_evTx (s : State) : exec .evTx s =
    if s.txIdx.toNat < s.txLen.toNat then
      match bufRead s s.txIdx.toNat with
      | some b => .next { s with
          txIdx := s.txIdx + 1, trace := s.trace ++ [.txByte b, .directive .ackContinue, .irqDone] }
      | none => .fault .bufferIndexOutOfRange
    else .next { s with trace := s.trace ++ [.directive .nackWaitStart, .irqDone] } := by
  by_cases h : s.txIdx.toNat < s.txLen.toNat
  · cases hr : bufRead s s.txIdx.toNat <;> simp [exec, execEvTx, h, hr, directiveAndEnd_eq, emit]
  · simp [exec, execEvTx, h, directiveAndEnd_eq, txUnsent]

/-- RXDATA stores the byte, or stores nothing (R119, R120). -/
theorem exec_evRx (d : Byte) (s : State) : exec (.evRx d) s = .next
    (if s.rxLen.toNat < s.C then { s with
      buf := s.buf.write s.rxLen.toNat d, rxLen := s.rxLen + 1
      trace := s.trace ++ [.directive .ackContinue, .irqDone] }
    else { s with trace := s.trace ++ [.directive .nackWaitStart, .irqDone] }) := by
  by_cases h : s.rxLen.toNat < s.C <;> simp [exec, execEvRx, rxHasRoom, h, directiveAndEnd_eq, bufWrite]

/-- What TXDATA can do when it answers a next state (R117, R118). -/
theorem evTx_cases (s t : State) (h : exec .evTx s = .next t) :
    (s.txIdx.toNat < s.txLen.toNat ∧ s.txIdx.toNat < s.C ∧ ∃ b, bufRead s s.txIdx.toNat = some b ∧ t = { s with
      txIdx := s.txIdx + 1, trace := s.trace ++ [.txByte b, .directive .ackContinue, .irqDone] }) ∨
    (s.txLen.toNat ≤ s.txIdx.toNat ∧ t = { s with trace := s.trace ++ [.directive .nackWaitStart, .irqDone] }) := by
  rw [exec_evTx] at h
  split at h
  · cases hr : bufRead s s.txIdx.toNat with
    | none => simp [hr] at h
    | some b =>
      simp only [hr, Host.Outcome.next.injEq] at h
      have hC : s.txIdx.toNat < s.C := by
        by_contra hC
        simp [bufRead_outside s (Nat.le_of_not_lt hC)] at hr
      exact .inl ⟨‹_›, hC, b, rfl, h.symm⟩
  · simp only [Host.Outcome.next.injEq] at h
    exact .inr ⟨Nat.le_of_not_lt ‹_›, h.symm⟩

/-! ### Commands outside a burst -/

/-- `ENQ` outside a burst (R152). -/
theorem exec_enq (b : Byte) (s : State) (hb : s.burst = none) : exec (.enq b) s = .next
    (if s.txLen.toNat < s.C then { s with
      buf := s.buf.write s.txLen.toNat b, txLen := s.txLen + 1, trace := s.trace ++ [.response (.ok true)] }
    else { s with trace := s.trace ++ [.response (.ok false)] }) := by
  by_cases h : s.txLen.toNat < s.C <;> simp [exec, execEnq, command, hb, txHasRoom, h, bufWrite, respond, emit]

/-- `DEQ` outside a burst (R156). -/
theorem exec_deq (s : State) (hb : s.burst = none) : exec .deq s =
    if s.rxIdx.toNat < s.rxLen.toNat then
      match bufRead s s.rxIdx.toNat with
      | some b => .next { s with rxIdx := s.rxIdx + 1, trace := s.trace ++ [.response (.byte true b)] }
      | none => .fault .bufferIndexOutOfRange
    else .next { s with trace := s.trace ++ [.response (.byte false 0)] } := by
  by_cases h : s.rxIdx.toNat < s.rxLen.toNat
  · cases hr : bufRead s s.rxIdx.toNat <;> simp [exec, execDeq, command, hb, h, hr, respond, emit]
  · simp [exec, execDeq, command, hb, rxUnread, h, respond, emit]

/-- `PEEK` outside a burst (R157). -/
theorem exec_peek (s : State) (hb : s.burst = none) : exec .peek s =
    if s.rxIdx.toNat < s.rxLen.toNat then
      match bufRead s s.rxIdx.toNat with
      | some b => .next { s with trace := s.trace ++ [.response (.byte true b)] }
      | none => .fault .bufferIndexOutOfRange
    else .next { s with trace := s.trace ++ [.response (.byte false 0)] } := by
  by_cases h : s.rxIdx.toNat < s.rxLen.toNat
  · cases hr : bufRead s s.rxIdx.toNat <;> simp [exec, execPeek, command, hb, h, hr, respond, emit]
  · simp [exec, execPeek, command, hb, rxUnread, h, respond, emit]

/-- The executed burst as one update (R153). -/
theorem enqnExec_eq (n : Byte) (bytes : List Byte) (s : State) : enqnExec n bytes s = { s with
    buf := s.buf.writeAll s.txLen.toNat (bytes.take (stageable n s))
    txLen := BitVec.ofNat 8 (s.txLen.toNat + stageable n s)
    burst := none
    trace := s.trace ++ [.response (.count (BitVec.ofNat 8 (stageable n s)))] } := rfl

/-! ### The next states of a command -/

/-- What a command other than `CBRET` can do: respond without another effect (closing an open burst, if any), stage a byte, open a
burst, keep a beat, run the burst, consume a byte, or write `cben` or `ie`. -/
theorem command_cases (i : Instr) (s t : State) (hi : i.isEvent = false) (hc : ∀ acc, i ≠ .cbret acc)
    (h : exec i s = .next t) :
    (∃ r, t = { s with burst := none, trace := s.trace ++ [.response r] }) ∨
    (∃ b, s.burst = none ∧ s.txLen.toNat < s.C ∧ t = { s with
      buf := s.buf.write s.txLen.toNat b, txLen := s.txLen + 1, trace := s.trace ++ [.response (.ok true)] }) ∨
    (∃ n, n ≠ 0 ∧ s.burst = none ∧ t = { s with burst := some ⟨n, []⟩ }) ∨
    (∃ n bytes b, s.burst = some ⟨n, bytes⟩ ∧ bytes.length + 1 ≠ n.toNat ∧
      t = { s with burst := some ⟨n, bytes ++ [b]⟩ }) ∨
    (∃ n bytes, bytes.length = n.toNat ∧ t = enqnExec n bytes s) ∨
    (∃ b, s.burst = none ∧ s.rxIdx.toNat < s.rxLen.toNat ∧ s.rxIdx.toNat < s.C ∧
      bufRead s s.rxIdx.toNat = some b ∧
      t = { s with rxIdx := s.rxIdx + 1, trace := s.trace ++ [.response (.byte true b)] }) ∨
    (∃ m, s.burst = none ∧ t = { s with cben := m, trace := s.trace ++ [.response .ack] }) ∨
    (∃ e, s.burst = none ∧ t = { s with ie := e, trace := s.trace ++ [.response .ack] }) := by
  have responds (r : Response) (hb : s.burst = none) (ht : { s with trace := s.trace ++ [.response r] } = t) :
      ∃ r, t = { s with burst := none, trace := s.trace ++ [.response r] } := ⟨r, by subst ht; simp [hb]⟩
  by_cases hbeat : ∃ b, i = .beat b
  · obtain ⟨b, rfl⟩ := hbeat
    rcases Option.eq_none_or_eq_some s.burst with hb | ⟨⟨n, bytes⟩, hb⟩
    · simp only [exec, execBeat, hb, Host.Outcome.next.injEq] at h
      exact .inl (responds .ill hb h)
    · simp only [exec, execBeat, hb, Host.Outcome.next.injEq, List.length_append, List.length_singleton] at h
      split at h
      · exact .inr (.inr (.inr (.inr (.inl ⟨n, bytes ++ [b], by simpa, h.symm⟩))))
      · exact .inr (.inr (.inr (.inl ⟨n, bytes, b, hb, ‹_›, h.symm⟩)))
  · rcases Option.eq_none_or_eq_some s.burst with hb | ⟨b, hb⟩
    · cases i <;> try (simp [Instr.isEvent] at hi; done)
      case cbret a => exact absurd rfl (hc a)
      case beat b => exact absurd ⟨b, rfl⟩ hbeat
      case enq b =>
        rw [exec_enq b s hb] at h
        simp only [Host.Outcome.next.injEq] at h
        split at h
        · exact .inr (.inl ⟨b, hb, ‹_›, h.symm⟩)
        · exact .inl (responds _ hb h)
      case enqn n =>
        simp only [exec, execEnqn, command, hb, Host.Outcome.next.injEq] at h
        split at h
        · exact .inr (.inr (.inr (.inr (.inl ⟨0, [], rfl, h.symm⟩))))
        · exact .inr (.inr (.inl ⟨n, ‹_›, hb, h.symm⟩))
      case deq =>
        rw [exec_deq s hb] at h
        split at h
        · rename_i hlt
          cases hr : bufRead s s.rxIdx.toNat with
          | none => simp [hr] at h
          | some b =>
            simp only [hr, Host.Outcome.next.injEq] at h
            have hC : s.rxIdx.toNat < s.C := by
              by_contra hC
              simp [bufRead_outside s (Nat.le_of_not_lt hC)] at hr
            exact .inr (.inr (.inr (.inr (.inr (.inl ⟨b, hb, hlt, hC, rfl, h.symm⟩)))))
        · simp only [Host.Outcome.next.injEq] at h
          exact .inl (responds _ hb h)
      case peek =>
        rw [exec_peek s hb] at h
        split at h
        · cases hr : bufRead s s.rxIdx.toNat with
          | none => simp [hr] at h
          | some b =>
            simp only [hr, Host.Outcome.next.injEq] at h
            exact .inl (responds _ hb h)
        · simp only [Host.Outcome.next.injEq] at h
          exact .inl (responds _ hb h)
      case setcb m =>
        simp only [exec, execSetcb, command, hb, Host.Outcome.next.injEq] at h
        exact .inr (.inr (.inr (.inr (.inr (.inr (.inl ⟨m, hb, by subst h; simp [respond, emit, hb]⟩))))))
      case setie e =>
        simp only [exec, execSetie, command, hb, Host.Outcome.next.injEq] at h
        exact .inr (.inr (.inr (.inr (.inr (.inr (.inr ⟨e, hb, by subst h; simp [respond, emit, hb]⟩))))))
      case avail =>
        simp only [exec, execAvail, command, hb, Host.Outcome.next.injEq] at h
        exact .inl (responds _ hb h)
      all_goals
        simp only [exec, execReserved0, execReserved9, execReservedA, execReservedB, execReservedC, execReservedD,
          execReservedE, illegalCommand, command, hb, Host.Outcome.next.injEq] at h
        exact .inl (responds .ill hb h)
    · cases i <;> try (simp [Instr.isEvent] at hi; done)
      case cbret a => exact absurd rfl (hc a)
      case beat b => exact absurd ⟨b, rfl⟩ hbeat
      all_goals
        simp only [exec, execEnq, execEnqn, execDeq, execPeek, execAvail, execSetcb, execSetie, execReserved0,
          execReserved9, execReservedA, execReservedB, execReservedC, execReservedD, execReservedE, illegalCommand,
          command_open _ s hb, Host.Outcome.next.injEq] at h
        exact .inl ⟨.ill, h.symm⟩

end Sys2Proof.Machine
end

