-- ==== Sys2Proof/Laws/Invert.lean ====
section
/-! SUPPORT. What the parts of an invocation can do, said once: the cases of an address dispatch, of an address event, of a STOP and of a
`CBRET`, each with its condition and its whole next state. -/

namespace Sys2Proof.Machine

/-- An accepted read waits for `REQ`, or is set up at once (R111, R112). -/
theorem acceptRead_cases (s : State) :
    (s.cben[2] = true ∧
      acceptRead s = { s with xst := .tx, txLen := 0, cst := .wReq, trace := s.trace ++ [.callback .req 0 0 0] }) ∨
    (s.cben[2] = false ∧
      acceptRead s = { s with
        xst := .tx, txLen := 0, txIdx := 0, cst := .ready
        trace := s.trace ++ [.directive .ackContinue, .irqDone] }) := by
  rw [acceptRead_eq]
  cases s.cben[2] <;> simp

/-- A resolved address is passed to the `ADDR` callback, or accepted as a write or as a read (R108). -/
theorem dispatchAddress_cases (a : BitVec 10) (s : State) :
    (s.cben[0] = true ∧
      dispatchAddress a s = { s with cst := .wAddr, trace := s.trace ++ [.callback .addr a s.sc 0] }) ∨
    (s.cben[0] = false ∧ s.evdir = false ∧ dispatchAddress a s = acceptWrite s) ∨
    (s.cben[0] = false ∧ s.evdir = true ∧ dispatchAddress a s = acceptRead s) := by
  rw [dispatchAddress_eq]
  cases s.cben[0] <;> cases s.evdir <;> simp

/-- An address event begins a 10-bit address, or dispatches a resolved address after counting a fresh byte, or dispatches an assembled
one (R103 to R107). -/
theorem addressEvent_cases (dir : Bool) (d : Byte) (s : State) :
    (s.extp = false ∧ isTenBitStart d = true ∧
      addressEvent dir d s = { s with
        evdir := dir, addr := rawAddress d, sc := nextStartCount s.sc, extp := true
        trace := s.trace ++ [.directive .ackContinue, .irqDone] }) ∨
    (s.extp = false ∧ isTenBitStart d = false ∧
      addressEvent dir d s = dispatchAddress (resolvedAddress d)
        { s with evdir := dir, addr := rawAddress d, sc := nextStartCount s.sc }) ∨
    (s.extp = true ∧
      addressEvent dir d s = dispatchAddress (assembledAddress s.addr d)
        { s with evdir := dir, addr := assembledAddress s.addr d, extp := false }) := by
  cases he : s.extp <;> cases ht : isTenBitStart d <;>
    simp [addressEvent, he, freshAddress, ht, secondAddressByte, tenBitFirstByte_eq]

/-- A STOP waits for its callback, or finishes, after a receive with `rxIdx` at 0 (R113 to R116). -/
theorem stopEvent_cases (s : State) :
    (s.xst = .tx ∧ s.cben[3] = true ∧
      stopEvent s = { s with cst := .wStop, trace := s.trace ++ [.callback .stop 0 0 0] }) ∨
    (s.xst = .rx ∧ s.cben[1] = true ∧
      stopEvent s = { s with rxIdx := 0, cst := .wRx, trace := s.trace ++ [.callback .rx 0 0 s.rxLen] }) ∨
    (s.xst = .rx ∧ s.cben[1] = false ∧ stopEvent s = finishStop { s with rxIdx := 0 }) ∨
    (s.xst = .tx ∧ s.cben[3] = false ∧ stopEvent s = finishStop s) ∨
    (s.xst = .idle ∧ stopEvent s = finishStop s) := by
  have three : s.xst = .idle ∨ s.xst = .rx ∨ s.xst = .tx := by cases s.xst <;> simp
  rcases three with hx | hx | hx
  · simp [stopEvent, hx]
  · have : stopEvent s = stopAfterReceive s := by simp only [stopEvent, hx]
    rw [this, stopAfterReceive_eq]
    cases s.cben[1] <;> simp [hx]
  · cases hc : s.cben[3] <;>
      simp [stopEvent, hx, hc, dispatchCallback, emit, CallbackKind.waitState]

/-- A `CBRET` outside a burst, case by case (R166 to R171). -/
theorem execCbret_cases (acc : Bool) (s : State) (hb : s.burst = none) :
    ∃ t, execCbret acc s = .next t ∧
      ((s.cst = .ready ∧ t = { s with trace := s.trace ++ [.response .ill] }) ∨
       (s.cst = .wAddr ∧ acc = false ∧ t = { s with
          xst := .idle, cst := .ready
          trace := s.trace ++ [.response .ack, .directive .nackWaitStart, .irqDone] }) ∨
       (s.cst = .wAddr ∧ acc = true ∧ s.evdir = false ∧ t = { s with
          xst := .rx, rxLen := 0, cst := .ready
          trace := s.trace ++ [.response .ack, .directive .ackContinue, .irqDone] }) ∨
       (s.cst = .wAddr ∧ acc = true ∧ s.evdir = true ∧ s.cben[2] = true ∧ t = { s with
          xst := .tx, txLen := 0, cst := .wReq
          trace := s.trace ++ [.response .ack, .callback .req 0 0 0] }) ∨
       (s.cst = .wAddr ∧ acc = true ∧ s.evdir = true ∧ s.cben[2] = false ∧ t = { s with
          xst := .tx, txLen := 0, txIdx := 0, cst := .ready
          trace := s.trace ++ [.response .ack, .directive .ackContinue, .irqDone] }) ∨
       (s.cst = .wReq ∧ t = { s with
          txIdx := 0, cst := .ready
          trace := s.trace ++ [.response .ack, .directive .ackContinue, .irqDone] }) ∨
       ((s.cst = .wRx ∨ s.cst = .wStop) ∧ t = { s with
          sc := noStartYet, extp := false, xst := .idle, cst := .ready
          trace := s.trace ++ [.response .ack, .irqDone] })) := by
  rw [execCbret, command_closed _ _ hb]
  refine ⟨_, rfl, ?_⟩
  cases hc : s.cst
  case wAddr =>
    cases acc
    · simp [addressDecision, reject_eq, respond, emit]
    · cases he : s.evdir
      · simp [addressDecision, acceptWrite_eq, respond, emit, he]
      · rcases acceptRead_cases (respond .ack s) with ⟨hr, h⟩ | ⟨hr, h⟩ <;>
          simp only [respond_cben] at hr <;> simp only [addressDecision, respond_evdir, he, h, hr] <;> simp [respond, emit, he]
  all_goals simp [finishRead_eq, finishStop_eq, respond, emit, hc]

end Sys2Proof.Machine
end

