-- ==== Sys2Proof/Laws/PerInstr.lean ====
section
/-! SUPPORT. The family TableRow, made per instruction: the word `encode` gives an instruction has the fixed bits of its row of
spec/opcode_table.json, on the row's port. The rows are written out here from the table (R70, R80, R81). -/

namespace Sys2Proof.Laws.TableRow

/-- The row of an instruction: its port (true for event14, false for cmd16), its mask and its match. -/
def row : Instr → Bool × Nat × Nat
  | .evBerr => (true, 0x2000, 0x2000)
  | .evColl => (true, 0x3000, 0x1000)
  | .evAddr _ _ => (true, 0x3800, 0x0800)
  | .evAddrCont _ _ => (true, 0x3A00, 0x0200)
  | .evStop => (true, 0x3C00, 0x0400)
  | .evTx => (true, 0x3F00, 0x0300)
  | .evRx _ => (true, 0x3F00, 0x0200)
  | .evNone => (true, 0x3E00, 0x0000)
  | .enq _ => (false, 0xF000, 0x1000)
  | .enqn _ => (false, 0xF000, 0x2000)
  | .deq => (false, 0xF000, 0x3000)
  | .peek => (false, 0xF000, 0x4000)
  | .avail => (false, 0xF000, 0x5000)
  | .setcb _ => (false, 0xF000, 0x6000)
  | .setie _ => (false, 0xF000, 0x7000)
  | .cbret _ => (false, 0xF000, 0x8000)
  | .beat _ => (false, 0xF000, 0xF000)
  | .reserved0 => (false, 0xF000, 0x0000)
  | .reserved9 => (false, 0xF000, 0x9000)
  | .reservedA => (false, 0xF000, 0xA000)
  | .reservedB => (false, 0xF000, 0xB000)
  | .reservedC => (false, 0xF000, 0xC000)
  | .reservedD => (false, 0xF000, 0xD000)
  | .reservedE => (false, 0xF000, 0xE000)

/-- The word has the row's port and fixed bits. -/
def fits (p : PortWord) (r : Bool × Nat × Nat) : Bool :=
  match p with
  | .event w => r.1 && w &&& BitVec.ofNat 14 r.2.1 == BitVec.ofNat 14 r.2.2
  | .command c => !r.1 && c &&& BitVec.ofNat 16 r.2.1 == BitVec.ofNat 16 r.2.2
  | .reset => false

/-- The encoding of the instruction fits the instruction's row. -/
@[reducible] def Statement (i : Instr) : Prop := fits (encode i) (row i) = true

theorem evBerr : Statement .evBerr := by decide
theorem evColl : Statement .evColl := by decide
theorem evAddr (dir : Bool) (d : Byte) : Statement (.evAddr dir d) := by revert d; cases dir <;> decide
theorem evAddrCont (dir : Bool) (d : Byte) : Statement (.evAddrCont dir d) := by revert d; cases dir <;> decide
theorem evStop : Statement .evStop := by decide
theorem evTx : Statement .evTx := by decide
theorem evRx (d : Byte) : Statement (.evRx d) := by revert d; decide
theorem evNone : Statement .evNone := by decide
theorem enq (b : Byte) : Statement (.enq b) := by revert b; decide
theorem enqn (n : Byte) : Statement (.enqn n) := by revert n; decide
theorem deq : Statement .deq := by decide
theorem peek : Statement .peek := by decide
theorem avail : Statement .avail := by decide
theorem setcb (m : BitVec 4) : Statement (.setcb m) := by revert m; decide
theorem setie (e : Bool) : Statement (.setie e) := by cases e <;> decide
theorem cbret (acc : Bool) : Statement (.cbret acc) := by cases acc <;> decide
theorem beat (b : Byte) : Statement (.beat b) := by revert b; decide
theorem reserved0 : Statement .reserved0 := by decide
theorem reserved9 : Statement .reserved9 := by decide
theorem reservedA : Statement .reservedA := by decide
theorem reservedB : Statement .reservedB := by decide
theorem reservedC : Statement .reservedC := by decide
theorem reservedD : Statement .reservedD := by decide
theorem reservedE : Statement .reservedE := by decide

end Sys2Proof.Laws.TableRow
end

