-- ==== Sys2Proof/Laws/Runs.lean ====
section
/-! SUPPORT. Runs of instructions: the first instruction, and one run after another. -/

namespace Sys2Proof.Machine

@[simp] theorem execList_nil (s : State) : execList [] s = .next s := rfl

/-- Where the first instruction answers a next state, the run goes on from there. -/
theorem execList_cons {i : Instr} {is : List Instr} {s t : State} (h : exec i s = .next t) :
    execList (i :: is) s = execList is t := by
  simp [execList, h]

/-- A run that answers a next state, followed by another. -/
theorem execList_append {is js : List Instr} {s t : State} (h : execList is s = .next t) :
    execList (is ++ js) s = execList js t := by
  induction is generalizing s with
  | nil => simp only [execList, Host.Outcome.next.injEq] at h; simp [h]
  | cons i is ih =>
    simp only [execList] at h
    cases hi : exec i s with
    | next u => simp only [hi] at h; rw [List.cons_append, execList_cons hi]; exact ih h
    | fault r => simp [hi] at h
    | refused r => simp [hi] at h

end Sys2Proof.Machine
end

