-- ==== Sys2Proof/Laws/Step.lean ====
section
/-! SUPPORT. What one step can do, said once: it runs the decoded event, runs the decoded command, or lets the next presentation
arrive; and what an arrival is. -/

namespace Sys2Proof.Machine

/-- The core takes the pending event (R100, R209). -/
theorem takeWord_event (s : State) {w : EventWord} {ws : List EventWord} (ha : acceptsEvent s = true)
    (h : s.evIn = w :: ws) : takeWord s = some (decodeEvent s.extp w, { s with evIn := ws }) := by
  simp only [takeWord, ha, h]

/-- The core takes the presented command (R150). -/
theorem takeWord_command (s : State) {c : CommandWord} {cs : List CommandWord}
    (ha : acceptsEvent s = false ∨ s.evIn = []) (h : s.cmdIn = c :: cs) :
    takeWord s = some (decodeCommand c, { s with cmdIn := cs }) := by
  rcases ha with ha | ha <;> simp [takeWord, ha, h]

/-- The core has nothing to take. -/
theorem takeWord_none (s : State) (ha : acceptsEvent s = false ∨ s.evIn = []) (h : s.cmdIn = []) :
    takeWord s = none := by
  rcases ha with ha | ha <;> simp [takeWord, ha, h]

/-- A step runs an event, runs a command, or is an arrival; one of the three, with its condition (R38, R210). -/
theorem step_cases (s : State) :
    (acceptsEvent s = true ∧ ∃ w ws, s.evIn = w :: ws ∧ step s = exec (decodeEvent s.extp w) { s with evIn := ws }) ∨
    ((acceptsEvent s = false ∨ s.evIn = []) ∧
      ∃ c cs, s.cmdIn = c :: cs ∧ step s = exec (decodeCommand c) { s with cmdIn := cs }) ∨
    ((acceptsEvent s = false ∨ s.evIn = []) ∧ s.cmdIn = [] ∧ step s = .next (arrive s)) := by
  have commandOrArrival (ha : acceptsEvent s = false ∨ s.evIn = []) :
      (∃ c cs, s.cmdIn = c :: cs ∧ step s = exec (decodeCommand c) { s with cmdIn := cs }) ∨
      (s.cmdIn = [] ∧ step s = .next (arrive s)) := by
    cases hc : s.cmdIn with
    | nil => exact .inr ⟨rfl, by simp [step, takeWord_none s ha hc]⟩
    | cons c cs => exact .inl ⟨c, cs, rfl, by simp [step, takeWord_command s ha hc]⟩
  by_cases hb : acceptsEvent s = false ∨ s.evIn = []
  · exact .inr ((commandOrArrival hb).imp (⟨hb, ·⟩) (⟨hb, ·⟩))
  · simp only [not_or, Bool.not_eq_false] at hb
    obtain ⟨w, ws, he⟩ := List.exists_cons_of_ne_nil hb.2
    exact .inl ⟨hb.1, w, ws, he, by simp [step, takeWord_event s hb.1 he]⟩

/-- The word decoded from the command port is no event. -/
theorem decodeCommand_isEvent (c : CommandWord) : (decodeCommand c).isEvent = false := by
  unfold decodeCommand
  split <;> rfl

/-- The word decoded from the event port is an event. -/
theorem decodeEvent_isEvent (extp : Bool) (w : EventWord) : (decodeEvent extp w).isEvent = true := by
  unfold decodeEvent
  split <;> (try split) <;> rfl

/-- An arrival is the reset input, or changes the ports and the timeline alone. -/
theorem arrive_cases (s : State) :
    (∃ rest, s.timeline = .reset :: rest ∧ arrive s = resetInput { s with timeline := rest }) ∨
    ∃ evs cmds rest, arrive s = { s with evIn := s.evIn ++ evs, cmdIn := s.cmdIn ++ cmds, timeline := rest } := by
  cases h : s.timeline with
  | nil => exact .inr ⟨[], [], [], by simp [arrive, h]; rw [← h]⟩
  | cons p rest =>
    cases p with
    | event w => exact .inr ⟨[w], [], rest, by simp [arrive, h]⟩
    | command c => exact .inr ⟨[], [c], rest, by simp [arrive, h]⟩
    | reset => exact .inl ⟨rest, rfl, by simp [arrive, h]⟩

end Sys2Proof.Machine
end

