-- ==== Sys2Proof/Tests/Slice0.lean ====
section
/-! SUPPORT. Tests of the model. Expected results are taken from the spec: words from 30_encoding.md R70, R80, R87 and R88, and steps
from 95_test_vectors.md (each test names its row), or worked out by hand from a rule. The last part shows, for every statement that has
hypotheses, a concrete state and operands that meet them. -/

namespace Sys2Proof.Tests

open Sys2Proof.Machine

/-! ### Well-formedness refuses -/

theorem test_wf_continuation_needs_assembly : WellFormed false (.evAddrCont false 0xA5#8) = false := by decide
theorem test_wf_no_tx_during_assembly : WellFormed true .evTx = false := by decide
theorem test_wf_no_rx_during_assembly : WellFormed true (.evRx 0x01#8) = false := by decide
theorem test_wf_accepts : WellFormed true (.evAddrCont false 0xA5#8) = true ∧ WellFormed false .evTx = true ∧
    WellFormed false (.evRx 0xFF#8) = true ∧ WellFormed true .evStop = true ∧ WellFormed true (.enqn 0#8) = true := by decide

/-! ### Decoding: one word of every constructor, its fields written out -/

/-- R70: BERR COLL AM STOP DIF DIR, then DATA. -/
theorem test_decode_events :
    decodeEvent false (0b1_0_0_0_0_0#6 ++ 0x00#8) = .evBerr ∧
    decodeEvent false (0b0_1_0_0_0_0#6 ++ 0x00#8) = .evColl ∧
    decodeEvent false (0b0_0_1_0_0_0#6 ++ 0x84#8) = .evAddr false 0x84#8 ∧
    decodeEvent false (0b0_0_1_0_0_1#6 ++ 0x85#8) = .evAddr true 0x85#8 ∧
    decodeEvent true (0b0_0_0_0_1_0#6 ++ 0xA5#8) = .evAddrCont false 0xA5#8 ∧
    decodeEvent false (0b0_0_0_1_0_0#6 ++ 0x00#8) = .evStop ∧
    decodeEvent false (0b0_0_0_0_1_1#6 ++ 0x00#8) = .evTx ∧
    decodeEvent false (0b0_0_0_0_1_0#6 ++ 0x01#8) = .evRx 0x01#8 ∧
    decodeEvent false (0b0_0_0_0_0_0#6 ++ 0x00#8) = .evNone := by decide

/-- R208's example, L2.4 row 8, and ignored bits: 0x2C84, 0x0600 during assembly and outside it, 0x03FF, 0x0500. -/
theorem test_decode_several_flags :
    decodeEvent false 0x2C84#14 = .evBerr ∧ decodeEvent true 0x0600#14 = .evAddrCont false 0x00#8 ∧
    decodeEvent false 0x0600#14 = .evStop ∧ decodeEvent false 0x03FF#14 = .evTx ∧ decodeEvent false 0x0500#14 = .evStop ∧
    decodeEvent true 0x01FF#14 = .evNone := by decide

/-- R80, R81: OP, A, D. -/
theorem test_decode_commands :
    decodeCommand (0x1#4 ++ 0x0#4 ++ 0xAA#8) = .enq 0xAA#8 ∧ decodeCommand (0x2#4 ++ 0x0#4 ++ 0x03#8) = .enqn 0x03#8 ∧
    decodeCommand (0x3#4 ++ 0x0#4 ++ 0x00#8) = .deq ∧ decodeCommand (0x4#4 ++ 0x0#4 ++ 0x00#8) = .peek ∧
    decodeCommand (0x5#4 ++ 0x0#4 ++ 0x00#8) = .avail ∧ decodeCommand (0x6#4 ++ 0x5#4 ++ 0x00#8) = .setcb 0x5#4 ∧
    decodeCommand (0x7#4 ++ 0x0#4 ++ 0x01#8) = .setie true ∧ decodeCommand (0x8#4 ++ 0x0#4 ++ 0x00#8) = .cbret false ∧
    decodeCommand (0xF#4 ++ 0x0#4 ++ 0x12#8) = .beat 0x12#8 := by decide

/-- R83: the reserved opcodes. -/
theorem test_decode_reserved :
    decodeCommand 0x0000#16 = .reserved0 ∧ decodeCommand 0x9000#16 = .reserved9 ∧ decodeCommand 0xA5A5#16 = .reservedA ∧
    decodeCommand 0xB000#16 = .reservedB ∧ decodeCommand 0xC000#16 = .reservedC ∧ decodeCommand 0xD000#16 = .reservedD ∧
    decodeCommand 0xE123#16 = .reservedE := by decide

/-- Fields a command ignores (L2.8 row 10, L2.9 row 9, L2.10 rows 2 and 4). -/
theorem test_decode_ignored_fields :
    decodeCommand 0x1FAA#16 = .enq 0xAA#8 ∧ decodeCommand 0x5FFF#16 = .avail ∧ decodeCommand 0x6AFF#16 = .setcb 0xA#4 ∧
    decodeCommand 0x7003#16 = .setie true := by decide

/-- R87 to R89, with the words of 95_test_vectors.md. -/
theorem test_assembler :
    Asm.evAddr 0x85#8 = .event 0x0985#14 ∧ Asm.evAddrDir 0x85#8 false = .event 0x0885#14 ∧
    Asm.evAddr7 0x50#7 true = .event 0x09A1#14 ∧ Asm.evAddr10 0x2A5#10 = [.event 0x08F4#14, .event 0x02A5#14] ∧
    Asm.enqs [0x04#8, 0x05#8] = [.command 0x2002#16, .command 0xF004#16, .command 0xF005#16] ∧
    Asm.accept = .command 0x8001#16 ∧ Asm.reject = .command 0x8000#16 ∧
    Asm.crit [] = [.command 0x7000#16, .command 0x7001#16] := by decide

/-! ### Single steps -/

/-- The state of a next outcome. -/
def nextOf (o : Host.Outcome State Fault Refusal) : Option State :=
  match o with
  | .next t => some t
  | .fault _ | .refused _ => none

/-- Reset with C = 64. -/
def s64 : State := State.resetAt 63

/-- Reset with C = 2. -/
def s2 : State := State.resetAt 1

/-- L2.5 row 1: two staged bytes. -/
def staged : State := { s64 with buf := [(0, 0xAA#8), (1, 0xBB#8)], txLen := 2 }

/-- L2.9 row 1: two received bytes. -/
def received : State := { s64 with buf := [(0, 0x01#8), (1, 0x02#8)], rxLen := 2 }

/-- R102's example. -/
theorem test_berr : nextOf (exec .evBerr { s64 with sc := 2, extp := true, xst := .rx }) =
    some { s64 with sc := 0xFF#8, trace := [.errClr, .irqDone] } := by decide
theorem test_coll : nextOf (exec .evColl { s64 with sc := 2, extp := true, xst := .rx }) =
    some { s64 with sc := 0xFF#8, trace := [.errClr, .irqDone] } := by decide
/-- L1.1 line 3. -/
theorem test_addr_callback : nextOf (exec (.evAddr true 0x85#8) { s64 with cben := 1, sc := 0 }) =
    some { s64 with cben := 1, sc := 1, addr := 0x085#10, evdir := true, cst := .wAddr
                    trace := [.callback .addr 0x042#10 1 0] } := by decide
/-- L1.2 line 1. -/
theorem test_addr_ten_bit_start : nextOf (exec (.evAddr false 0xF4#8) { s64 with cben := 1 }) =
    some { s64 with cben := 1, sc := 0, addr := 0x0F4#10, extp := true
                    trace := [.directive .ackContinue, .irqDone] } := by decide
/-- L1.2 line 2. -/
theorem test_addr_cont : nextOf (exec (.evAddrCont false 0xA5#8) { s64 with cben := 1, sc := 0, addr := 0x0F4, extp := true }) =
    some { s64 with cben := 1, sc := 0, addr := 0x2A5#10, cst := .wAddr
                    trace := [.callback .addr 0x2A5#10 0 0] } := by decide
/-- L2.4 row 4. -/
theorem test_stop_receive : nextOf (exec .evStop { received with xst := .rx, rxIdx := 1, cben := 2 }) =
    some { received with xst := .rx, cben := 2, cst := .wRx, trace := [.callback .rx 0 0 2] } := by decide
/-- L2.4 row 3. -/
theorem test_stop_transmit : nextOf (exec .evStop { s64 with xst := .tx, sc := 1 }) =
    some { s64 with trace := [.irqDone] } := by decide
/-- L2.5 row 1. -/
theorem test_tx : nextOf (exec .evTx staged) =
    some { staged with txIdx := 1, trace := [.txByte 0xAA#8, .directive .ackContinue, .irqDone] } := by decide
/-- L2.5 row 2. -/
theorem test_tx_overrun : nextOf (exec .evTx { staged with txIdx := 2 }) =
    some { staged with txIdx := 2, trace := [.directive .nackWaitStart, .irqDone] } := by decide
/-- L2.5 row 10: the received byte overwrites a staged one. -/
theorem test_rx_overwrites_staged : nextOf (exec (.evRx 0x99#8) { s64 with buf := [(0, 0x10#8), (1, 0x20#8)], txLen := 2 }) =
    some { s64 with buf := [(0, 0x99#8), (1, 0x20#8)], txLen := 2, rxLen := 1
                    trace := [.directive .ackContinue, .irqDone] } := by decide
/-- L2.5 row 11: C = 255, the largest index value. -/
theorem test_rx_last : (nextOf (exec (.evRx 0x01#8) { State.resetAt 254 with rxLen := 254 })).map
    (fun t => (t.rxLen, t.buf)) = some (255#8, [(254, 0x01#8)]) := by decide
/-- L2.6 row 2. -/
theorem test_none : nextOf (exec .evNone { s64 with extp := true }) =
    some { s64 with extp := true, trace := [.irqDone] } := by decide
/-- L2.8 rows 1 and 2. -/
theorem test_enq : nextOf (exec (.enq 0xAA#8) s64) =
    some { s64 with buf := [(0, 0xAA#8)], txLen := 1, trace := [.response (.ok true)] } := by decide
theorem test_enq_full : nextOf (exec (.enq 0x01#8) { State.resetAt 3 with txLen := 4 }) =
    some { State.resetAt 3 with txLen := 4, trace := [.response (.ok false)] } := by decide
/-- L2.8 row 4. -/
theorem test_enqn_zero : nextOf (exec (.enqn 0#8) s64) = some { s64 with trace := [.response (.count 0)] } := by decide
/-- L2.8 row 3, the last beat. -/
theorem test_beat_last :
    nextOf (exec (.beat 0x03#8) { State.resetAt 3 with txLen := 2, burst := some ⟨3, [0x01, 0x02]⟩ }) =
    some { State.resetAt 3 with buf := [(2, 0x01#8), (3, 0x02#8)], txLen := 4, trace := [.response (.count 2)] } := by decide
/-- L2.8 row 8. -/
theorem test_beat_stray : nextOf (exec (.beat 0x12#8) s64) = some { s64 with trace := [.response .ill] } := by decide
/-- L2.9 row 1. -/
theorem test_deq : nextOf (exec .deq received) =
    some { received with rxIdx := 1, trace := [.response (.byte true 0x01#8)] } := by decide
/-- L2.8 row 6: a `deq` inside a burst is not executed. -/
theorem test_deq_in_burst : nextOf (exec .deq { received with burst := some ⟨2, [0x07]⟩ }) =
    some { received with trace := [.response .ill] } := by decide
/-- R157's example, and L2.9 row 4. -/
theorem test_peek : nextOf (exec .peek { received with rxIdx := 1 }) =
    some { received with rxIdx := 1, trace := [.response (.byte true 0x02#8)] } := by decide
theorem test_peek_stale : nextOf (exec .peek { s64 with rxIdx := 2 }) =
    some { s64 with rxIdx := 2, trace := [.response (.byte false 0x00#8)] } := by decide
/-- L2.9 rows 6 and 8. -/
theorem test_avail_negative : nextOf (exec .avail { s64 with rxIdx := 2 }) =
    some { s64 with rxIdx := 2, trace := [.response (.avail 0x1FE#9)] } := by decide
theorem test_avail_least : nextOf (exec .avail { State.resetAt 254 with rxIdx := 255 }) =
    some { State.resetAt 254 with rxIdx := 255, trace := [.response (.avail 0x101#9)] } := by decide
/-- L2.10 rows 1 and 3. -/
theorem test_setcb : nextOf (exec (.setcb 0xF#4) s64) =
    some { s64 with cben := 0xF#4, trace := [.response .ack] } := by decide
theorem test_setie : nextOf (exec (.setie false) s64) =
    some { s64 with ie := false, trace := [.response .ack] } := by decide
/-- R110's example: the stale cursor stays. -/
theorem test_cbret_accept_write : nextOf (exec (.cbret true) { received with rxIdx := 2, cst := .wAddr }) =
    some { received with rxIdx := 2, rxLen := 0, xst := .rx
                         trace := [.response .ack, .directive .ackContinue, .irqDone] } := by decide
/-- L2.10 row 7. -/
theorem test_cbret_after_stop : nextOf (exec (.cbret true) { s64 with cst := .wStop, xst := .tx, sc := 2 }) =
    some { s64 with trace := [.response .ack, .irqDone] } := by decide
/-- L2.10 rows 8 to 10. -/
theorem test_reserved_outside_a_burst :
    nextOf (exec .reserved0 s64) = some { s64 with trace := [.response .ill] } ∧
    nextOf (exec .reserved9 { s64 with cst := .wAddr }) = some { s64 with cst := .wAddr, trace := [.response .ill] } ∧
    nextOf (exec .reservedA s64) = some { s64 with trace := [.response .ill] } ∧
    nextOf (exec .reservedB s64) = some { s64 with trace := [.response .ill] } := by decide
/-- R161's corner case. -/
theorem test_reserved_inside_a_burst :
    nextOf (exec .reservedC { s64 with burst := some ⟨2, []⟩ }) = some { s64 with trace := [.response .ill] } ∧
    nextOf (exec .reservedD { s64 with burst := some ⟨2, []⟩ }) = some { s64 with trace := [.response .ill] } ∧
    nextOf (exec .reservedE { s64 with burst := some ⟨2, []⟩ }) = some { s64 with trace := [.response .ill] } := by decide

/-! ### Steps of the machine -/

/-- L2.7 row 5: the event runs first, and the command stays. -/
theorem test_event_before_command : nextOf (step { s64 with evIn := [0x0400#14], cmdIn := [0x3000#16] }) =
    some { s64 with cmdIn := [0x3000#16], trace := [.irqDone] } := by decide
/-- L2.7 rows 1 and 2: the event stays pending while the command runs. -/
theorem test_masked_event_stays : nextOf (step { s64 with ie := false, evIn := [0x0884#14], cmdIn := [0x7001#16] }) =
    some { s64 with evIn := [0x0884#14], trace := [.response .ack] } := by decide
/-- L2.11, from its start state. -/
theorem test_reset_input :
    nextOf (step { s64 with cst := .wAddr, sc := 3, cben := 0xF, ie := false, burst := some ⟨2, [7]⟩, buf := [(0, 0x99#8)]
                            timeline := [.reset] }) = some { s64 with bufDraw := 1 } := by decide
/-- The probe presents the word so that the next step runs it. -/
theorem test_withFetchWord :
    nextOf (step (State.withFetchWord s64 16 0x10AA)) = nextOf (exec (.enq 0xAA#8) s64) ∧
    nextOf (step (State.withFetchWord s64 16 0x0201)) = nextOf (exec (.evRx 0x01#8) s64) ∧
    decodeTableWord 16 0x0884 = some (.evAddr false 0x84#8) ∧ decodeTableWord 16 0xE000 = some .reservedE := by decide
/-- The buffer keeps rising indices, and the last write wins. -/
theorem test_memory : Memory.writeAll [(1, 0x11#8)] 0 [0x20#8, 0x21#8, 0x22#8] = [(0, 0x20#8), (1, 0x21#8), (2, 0x22#8)] ∧
    Memory.read [(0, 0x20#8), (2, 0x22#8)] 1 = none ∧ Memory.wf [(1, 0x11#8), (0, 0x20#8)] = false := by decide

/-! ### Witnesses: every statement's hypotheses are met, clause by clause -/

/-- An instruction that answers a next state. -/
def runs (i : Instr) (s : State) : Bool := (nextOf (exec i s)).isSome

/-- A wait in the given controller state, with a direction. -/
def waiting (cst : Cst) (dir : Bool) : State := { s64 with cst := cst, evdir := dir }

theorem witness_EventWordsDecodeByPriority :
    (0x3FFF#14)[13] = true ∧ ((0x1FFF#14)[13] = false ∧ (0x1FFF#14)[12] = true) ∧
    ((0x0FFF#14)[13] = false ∧ (0x0FFF#14)[12] = false ∧ (0x0FFF#14)[11] = true) ∧
    ((0x0600#14)[11] = false ∧ (0x0600#14)[9] = true) ∧ ((0x0400#14)[11] = false ∧ (0x0400#14)[9] = false ∧ (0x0400#14)[10] = true) ∧
    ((0x03FF#14)[10] = false ∧ (0x03FF#14)[9] = true ∧ (0x03FF#14)[8] = true) ∧
    ((0x0200#14)[10] = false ∧ (0x0200#14)[9] = true ∧ (0x0200#14)[8] = false) ∧
    ((0x01FF#14)[11] = false ∧ (0x01FF#14)[10] = false ∧ (0x01FF#14)[9] = false) := by decide
theorem witness_UnusedCommandFieldsAreIgnored :
    ((0x5FFF#16).extractLsb 15 12 = (0x5000#16).extractLsb 15 12 ∧ (0x5FFF#16).extractLsb 15 12 ≠ 0x6#4) ∧
    ((0x6AFF#16).extractLsb 15 12 = 0x6#4 ∧ (0x6AFF#16).extractLsb 11 8 = (0x6A00#16).extractLsb 11 8) ∧
    ((0x1FAA#16).extractLsb 15 12 = 0x1#4 ∧ (0x1FAA#16).extractLsb 7 0 = (0x10AA#16).extractLsb 7 0) ∧
    ((0x7FFF#16).extractLsb 15 12 = 0x7#4 ∧ (0x7FFF#16)[0] = (0x7001#16)[0]) := by decide
theorem witness_UnusedEventFieldsAreIgnored :
    ((0x03FF#14).extractLsb 13 8 = (0x0300#14).extractLsb 13 8 ∧ classify 0x03FF#14 false = .txData) ∧
    ((0x3FFF#14).extractLsb 13 9 = (0x3E00#14).extractLsb 13 9 ∧ classify 0x3FFF#14 true = .error) ∧
    ((0x05FF#14).extractLsb 13 9 = (0x0400#14).extractLsb 13 9 ∧ classify 0x05FF#14 false = .stop) ∧
    ((0x01FF#14).extractLsb 13 9 = (0x0000#14).extractLsb 13 9 ∧ classify 0x01FF#14 true = .none) := by decide
theorem witness_DecodeOfEncodeIsTheInstruction :
    WellFormed true (.evAddrCont true 0xFF#8) = true ∧ WellFormed false (.evRx 0x00#8) = true ∧
    WellFormed true (.setcb 0xF#4) = true ∧ WellFormed false (.beat 0xFF#8) = true := by decide
theorem witness_DecodedInstructionsAreWellFormed :
    decodePort true (.event 0x02FF#14) = some (.evAddrCont false 0xFF#8) ∧
    decodePort false (.command 0xFFFF#16) = some (.beat 0xFF#8) := by decide
theorem witness_StepRunsTheDecodedInstruction :
    (s64.cst = .ready ∧ s64.ie = true ∧ s64.burst = none ∧ { s64 with evIn := [0x0400#14] }.evIn = 0x0400#14 :: []) ∧
    ((waiting .wAddr false).cst ≠ .ready ∧ { waiting .wAddr false with cmdIn := [0x8001#16] }.cmdIn = 0x8001#16 :: []) ∧
    (s64.evIn = [] ∧ s64.cmdIn = []) := by decide
theorem witness_UnacceptedEventsStayPending :
    (s64.cst = .ready ∧ s64.ie = true ∧ s64.burst = none ∧ { s64 with evIn := [0x0884#14] }.evIn = 0x0884#14 :: []) ∧
    (nextOf (step { s64 with ie := false, evIn := [0x0884#14] })).isSome = true ∧
    (nextOf (step { s64 with burst := some ⟨2, [0x01]⟩, evIn := [0x0400#14] })).isSome = true ∧
    (nextOf (step { waiting .wAddr false with evIn := [0x0400#14] })).isSome = true := by decide
theorem witness_InstructionsLeaveTheAgentsAlone : runs .evTx staged = true ∧ runs .deq received = true := by decide
theorem witness_ErrorAbandonsTheTransaction :
    (0x2C84#14)[13] = true ∧ decodeEvent false 0x2C84#14 = .evBerr ∧ (0x1000#14)[12] = true := by decide
theorem witness_TenBitFirstByteStartsAssembly :
    s64.extp = false ∧ 0xF6#8 &&& 0xF9#8 = 0xF0#8 ∧ 0xF0#8 &&& 0xF9#8 = 0xF0#8 ∧ ¬ (0xF1#8 &&& 0xF9#8 = 0xF0#8) := by decide
theorem witness_FreshAddressRequestsTheAddrCallback :
    { s64 with cben := 1 }.extp = false ∧ 0xF1#8 &&& 0xF9#8 ≠ 0xF0#8 ∧ { s64 with cben := 1 }.cben[0] = true := by decide
theorem witness_FreshAddressWithoutCallbackIsAccepted :
    s64.extp = false ∧ 0xF8#8 &&& 0xF9#8 ≠ 0xF0#8 ∧ s64.cben[0] = false := by decide
theorem witness_SecondByteCompletesTheAddress :
    { s64 with extp := true, addr := 0x0F4 }.extp = true ∧
    0x2A5#10 = ((0x0F4#10 >>> 1 &&& 3#10) <<< 8) ||| (0xA5#8).setWidth 10 ∧
    { s64 with cben := 1 }.cben[0] = true ∧ s64.cben[0] = false := by decide
theorem witness_TenBitAddressFiresTheCallbackOnce :
    { s64 with cben := 1 }.extp = false ∧ { s64 with cben := 1 }.cben[0] = true := by decide
theorem witness_TenBitReadByteIsASevenBitAddress :
    { s64 with cben := 0xF }.extp = false ∧ { s64 with cben := 0xF }.cben[0] = true := by decide
/-- For RejectTouchesNoBufferState, AcceptSetsUpTheTransaction, ReturnFromReqFinishesTheRead,
ReturnFromRxOrStopFinishesTheStop, AcceptBitIsReadOnlyInWAddr and CbretWithNoCallbackIsIllegal. -/
theorem witness_Returns :
    (waiting .wAddr false).burst = none ∧ (waiting .wAddr false).cst = .wAddr ∧ (waiting .wReq true).cst = .wReq ∧
    (waiting .wRx false).cst = .wRx ∧ (waiting .wStop true).cst = .wStop ∧ s64.cst = .ready ∧ s64.burst = none ∧
    (waiting .wReq true).cst ≠ .wAddr := by decide
theorem witness_SetcbInsideTheAddrCallbackDecidesReq :
    (waiting .wAddr true).burst = none ∧ (waiting .wAddr true).cst = .wAddr ∧ (waiting .wAddr true).evdir = true ∧
    (0x5#4)[2] = true ∧ (0x1#4)[2] = false := by decide
theorem witness_PreStagedBytesAreDiscarded :
    let s := { waiting .wAddr true with buf := staged.buf, txLen := 2 }
    s.burst = none ∧ s.cst = .wAddr ∧ s.evdir = true ∧ s.cben[2] = false := by decide
theorem witness_AcceptedWriteLeavesAStaleCursor :
    let s := { waiting .wAddr false with rxIdx := 2, rxLen := 2 }
    s.burst = none ∧ s.cst = .wAddr ∧ s.evdir = false := by decide
theorem witness_StopFollowsTheDirectionOfTheTransaction :
    ((0x05FF#14)[13] = false ∧ (0x05FF#14)[12] = false ∧ (0x05FF#14)[11] = false ∧ (0x05FF#14)[10] = true ∧ (0x05FF#14)[9] = false) ∧
    ({ s64 with xst := .tx, cben := 8 }.cben[3] = true ∧ { s64 with xst := .tx }.cben[3] = false) ∧
    ({ s64 with xst := .rx, cben := 2 }.cben[1] = true ∧ { s64 with xst := .rx }.cben[1] = false) ∧ s64.xst = .idle := by decide
theorem witness_TxDataSendsTheNextByteOrNacks :
    ((0x03FF#14)[13] = false ∧ (0x03FF#14)[12] = false ∧ (0x03FF#14)[11] = false ∧ (0x03FF#14)[10] = false ∧ (0x03FF#14)[9] = true ∧
      (0x03FF#14)[8] = true) ∧
    (staged.txIdx.toNat < staged.txLen.toNat ∧ staged.txIdx.toNat < staged.C ∧ staged.buf.read staged.txIdx.toNat = some 0xAA#8) ∧
    { staged with txIdx := 2 }.txLen.toNat ≤ { staged with txIdx := 2 }.txIdx.toNat := by decide
theorem witness_RxDataStoresTheByteOrNacks :
    ((0x02FF#14)[13] = false ∧ (0x02FF#14)[12] = false ∧ (0x02FF#14)[11] = false ∧ (0x02FF#14)[10] = false ∧ (0x02FF#14)[9] = true ∧
      (0x02FF#14)[8] = false) ∧
    { s64 with rxLen := 63 }.rxLen.toNat < { s64 with rxLen := 63 }.C ∧ { s64 with rxLen := 64 }.C ≤ { s64 with rxLen := 64 }.rxLen.toNat := by
  decide
theorem witness_ReceivedBytesFillTheBufferAndNoMore :
    s2.rxLen.toNat ≤ s2.C ∧ { s2 with rxLen := 2 }.rxLen.toNat ≤ { s2 with rxLen := 2 }.C := by decide
theorem witness_NoneOnlyEndsTheInvocation : (0x01FF#14).extractLsb 13 9 = 0#5 := by decide
theorem witness_OnlyAReadOutsideTheBufferStops :
    let s := { s2 with txIdx := 2, txLen := 3, rxIdx := 2, rxLen := 3 }
    (s.txIdx.toNat < s.txLen.toNat ∧ s.C ≤ s.txIdx.toNat ∧ s.burst = none ∧ s.rxIdx.toNat < s.rxLen.toNat ∧ s.C ≤ s.rxIdx.toNat) ∧
    staged.txIdx.toNat < staged.C ∧ received.rxIdx.toNat < received.C := by decide
theorem witness_EnqAppendsOneByte :
    (0x1FAA#16).extractLsb 15 12 = 0x1#4 ∧ s2.burst = none ∧ { s2 with txLen := 1 }.txLen.toNat < { s2 with txLen := 1 }.C ∧
    { s2 with txLen := 2 }.C ≤ { s2 with txLen := 2 }.txLen.toNat := by decide
theorem witness_EnqnHeaderAndBeatsKeepTheBurst :
    (0x2FFF#16).extractLsb 15 12 = 0x2#4 ∧ s64.burst = none ∧ (255#8 ≠ 0) ∧
    { s64 with burst := some ⟨3, [0x01]⟩ }.burst = some ⟨3, [0x01]⟩ ∧ [0x01#8].length + 1 ≠ (3#8).toNat := by decide
theorem witness_LastBeatWritesTheBurst :
    let s := { State.resetAt 3 with txLen := 2, burst := some ⟨3, [0x01, 0x02]⟩ }
    s64.burst = none ∧ s.burst = some ⟨3, [0x01, 0x02]⟩ ∧ [0x01#8, 0x02#8].length + 1 = (3#8).toNat ∧
    2 = min (3#8).toNat (s.C - s.txLen.toNat) := by decide
theorem witness_BurstIsOneTruncatingEnqueue :
    let s := { s2 with txLen := 1 }
    s.burst = none ∧ 1 ≤ [0x01#8].length ∧ [0x01#8, 0x02#8].length ≤ 255 ∧
    1 = min [0x01#8, 0x02#8].length (s.C - s.txLen.toNat) := by decide
theorem witness_OtherCommandsAbortTheBurst :
    (0x8001#16).extractLsb 15 12 ≠ 0xF#4 ∧ Instr.isEvent (.cbret true) = false ∧
    { waiting .wReq true with burst := some ⟨1, []⟩ }.burst = some ⟨1, []⟩ := by decide
/-- For StrayBeatIsIllegal and ReservedOpcodesAreIllegal. -/
theorem witness_StrayBeatAndReservedAreIllegal :
    (0xFFFF#16).extractLsb 15 12 = 0xF#4 ∧ s64.burst = none ∧ { s64 with burst := some ⟨1, []⟩ }.burst ≠ none ∧
    (0x0FFF#16).extractLsb 15 12 = 0x0#4 ∧ (0x9FFF#16).extractLsb 15 12 = 0x9#4 ∧
    (0xAFFF#16).extractLsb 15 12 = 0xA#4 ∧ (0xBFFF#16).extractLsb 15 12 = 0xB#4 ∧ (0xCFFF#16).extractLsb 15 12 = 0xC#4 ∧
    (0xDFFF#16).extractLsb 15 12 = 0xD#4 ∧ (0xEFFF#16).extractLsb 15 12 = 0xE#4 := by decide
/-- For DeqReturnsAndConsumes and PeekReturnsAndKeeps. -/
theorem witness_DeqAndPeek :
    (0x3FFF#16).extractLsb 15 12 = 0x3#4 ∧ (0x4FFF#16).extractLsb 15 12 = 0x4#4 ∧ received.burst = none ∧
    ({ received with rxIdx := 1 }.rxIdx.toNat < received.rxLen.toNat ∧ { received with rxIdx := 1 }.rxIdx.toNat < received.C) ∧
    received.rxLen.toNat ≤ { received with rxIdx := 2 }.rxIdx.toNat := by decide
/-- For AvailIsTheExactDifference and SetcbAndSetieWriteTheirBits. -/
theorem witness_AvailAndControl :
    (0x5FFF#16).extractLsb 15 12 = 0x5#4 ∧ (0x6FFF#16).extractLsb 15 12 = 0x6#4 ∧ (0x7FFF#16).extractLsb 15 12 = 0x7#4 ∧
    { State.resetAt 254 with rxIdx := 255 }.burst = none := by decide
theorem witness_EachCommandReturnsOneResponse :
    Instr.isEvent (.enqn 2#8) = false ∧ runs (.enqn 2#8) s64 = true ∧ runs .deq received = true := by decide
theorem witness_ResetInputAbandonsEverything :
    let s := { waiting .wAddr false with burst := some ⟨2, [7]⟩, timeline := [.reset] }
    s.cst ≠ .ready ∧ s.cmdIn = [] ∧ s.timeline = .reset :: [] := by decide

/-- The state of `received` meets the invariant. -/
theorem received_inv : received.Inv where
  bounded := by decide
  formed := by decide
  written := by
    intro i h
    have h2 : i < 2 := h
    interval_cases i <;> rfl
  burst := by decide
  waits := trivial

/-- For EveryStepKeepsTheInvariant and NoStepStopsTheBlock. -/
theorem witness_StepsFromTheInvariant : received.Inv ∧
    (nextOf (step { received with cmdIn := [0x3000#16] })).isSome = true ∧ (nextOf (step received)).isSome = true :=
  ⟨received_inv, by decide, by decide⟩
theorem witness_ResetContentsAreNeverObserved : received.Inv ∧ Host.Core.run Sys2Proof.core 1 received = .next received :=
  ⟨received_inv, rfl⟩
/-- For CommandsDoNotTouchTheAddressMachine and CommandsEmitNothingToTheBus. -/
theorem witness_CommandRules :
    (Instr.isEvent .deq = false ∧ (∀ acc, Instr.deq ≠ .cbret acc) ∧ runs .deq received = true) ∧
    (Instr.isEvent (.cbret true) = false ∧ s64.cst = .ready ∧ runs (.cbret true) s64 = true) ∧
    runs (.cbret true) { waiting .wAddr true with burst := some ⟨1, []⟩ } = true := by decide
/-- For InvocationsLeaveControlAlone and SegmentsEndOrSuspendTheInvocation. -/
theorem witness_InvocationRules :
    (Instr.isEvent .evTx = true ∧ staged.cst = .ready ∧ runs .evTx staged = true) ∧
    ((waiting .wAddr true).cst ≠ .ready ∧ (waiting .wAddr true).burst = none ∧ runs (.cbret true) (waiting .wAddr true) = true) := by
  decide
theorem witness_OnlyTwoDirectivesAreIssued : (nextOf (step { staged with evIn := [0x0300#14] })).isSome = true := by decide
theorem witness_OnlyCbretOrResetEndsAWait :
    (nextOf (step { waiting .wAddr false with cmdIn := [0x8001#16] })).map State.cst = some .ready ∧
    (nextOf (step { waiting .wAddr false with timeline := [.reset] })).map State.cst = some .ready ∧
    Instr.isEvent .peek = false ∧ s64.cst = .ready ∧ runs .peek s64 = true := by decide
theorem witness_StartCounterLaw : runs (.evAddr false 0x84#8) { s64 with sc := 127 } = true ∧ runs .evStop s64 = true := by decide
theorem witness_AddrCallbacksCountTheAddressPhases :
    let ps : List AddressPhase := [.seven false 0x84 true, .ten false false 0b10 0xA5 false, .seven true 0xF5 true]
    let s := { s64 with cben := 0b0001#4 }
    ps.all AddressPhase.proper = true ∧ ps.length ≤ 128 ∧ s.sc = 0xFF#8 ∧ s.cben = 0b0001#4 ∧ s.extp = false ∧ s.cst = .ready ∧
    s.burst = none := by decide
theorem witness_TransmitSendsTheEnqueuedBytesInOrder :
    let s := { waiting .wReq true with cap := 1 }
    s.cst = .wReq ∧ s.burst = none ∧ s.txLen = 0 ∧ [0x11#8, 0x22#8].length ≤ s.C := by decide
theorem witness_ReceiveDeliversTheBytesInOrder :
    let s := { s2 with xst := .rx, cben := 2 }
    s.xst = .rx ∧ s.cst = .ready ∧ s.burst = none ∧ s.rxLen = 0 ∧ s.cben[1] = true ∧ [0x01#8, 0x02#8].length ≤ s.C := by decide
theorem witness_EqualBuffersAreEqualData : Memory.wf [(0, 0x01#8), (2, 0x02#8)] = true ∧ Memory.wf [] = true := by decide

end Sys2Proof.Tests
end

section
/-! Proofs of the scope's statements (00_scope.md): what every instruction leaves to the agents (R6, R91, R206), and when an
instruction stops (R11, R52). -/

namespace Sys2Proof.Machine

/-! ### The agents' side of the state -/

/-- What no instruction writes: the ports and the timeline, the capacity, and the draw of the reset contents. -/
def State.agents (s : State) : List EventWord × List CommandWord × List PortWord × Capacity × Nat :=
  (s.evIn, s.cmdIn, s.timeline, s.cap, s.bufDraw)

/-- `t` has the agents' side of `s`, and its trace continues that of `s`. -/
def KeepsAgents (s t : State) : Prop := t.agents = s.agents ∧ s.trace <+: t.trace

theorem keepsAgents_iff (s t : State) : KeepsAgents s t ↔
    t.evIn = s.evIn ∧ t.cmdIn = s.cmdIn ∧ t.timeline = s.timeline ∧ t.cap = s.cap ∧ t.bufDraw = s.bufDraw ∧
    s.trace <+: t.trace := by
  simp [KeepsAgents, State.agents, and_assoc]

/-! ### The parts of an invocation -/

theorem acceptWrite_keepsAgents (s : State) : KeepsAgents s (acceptWrite s) := by
  rw [acceptWrite_eq]
  exact ⟨rfl, _, rfl⟩

theorem acceptRead_keepsAgents (s : State) : KeepsAgents s (acceptRead s) := by
  rcases acceptRead_cases s with ⟨-, h⟩ | ⟨-, h⟩ <;> rw [h] <;> exact ⟨rfl, _, rfl⟩

theorem finishStop_keepsAgents (s : State) : KeepsAgents s (finishStop s) := ⟨rfl, _, rfl⟩

theorem errorEvent_keepsAgents (s : State) : KeepsAgents s (errorEvent s) := by
  rw [errorEvent_eq]
  exact ⟨rfl, _, rfl⟩

theorem dispatchAddress_keepsAgents (a : BitVec 10) (s : State) : KeepsAgents s (dispatchAddress a s) := by
  rcases dispatchAddress_cases a s with ⟨-, h⟩ | ⟨-, -, h⟩ | ⟨-, -, h⟩ <;> rw [h]
  · exact ⟨rfl, _, rfl⟩
  · exact acceptWrite_keepsAgents s
  · exact acceptRead_keepsAgents s

theorem addressEvent_keepsAgents (dir : Bool) (d : Byte) (s : State) : KeepsAgents s (addressEvent dir d s) := by
  rcases addressEvent_cases dir d s with ⟨-, -, h⟩ | ⟨-, -, h⟩ | ⟨-, h⟩ <;> rw [h]
  · exact ⟨rfl, _, rfl⟩
  · exact dispatchAddress_keepsAgents _ _
  · exact dispatchAddress_keepsAgents _ _

theorem stopEvent_keepsAgents (s : State) : KeepsAgents s (stopEvent s) := by
  rcases stopEvent_cases s with ⟨-, -, h⟩ | ⟨-, -, h⟩ | ⟨-, -, h⟩ | ⟨-, -, h⟩ | ⟨-, h⟩ <;> rw [h]
  · exact ⟨rfl, _, rfl⟩
  · exact ⟨rfl, _, rfl⟩
  · exact finishStop_keepsAgents { s with rxIdx := 0 }
  · exact finishStop_keepsAgents s
  · exact finishStop_keepsAgents s

/-! ### Events, `CBRET` and the other commands -/

theorem exec_event_keepsAgents {i : Instr} {s t : State} (hi : i.isEvent = true) (h : exec i s = .next t) :
    KeepsAgents s t := by
  cases i
  case evBerr | evColl =>
    obtain rfl := Host.Outcome.next.inj h
    exact errorEvent_keepsAgents s
  case evAddr dir d | evAddrCont dir d =>
    obtain rfl := Host.Outcome.next.inj h
    exact addressEvent_keepsAgents dir d s
  case evStop =>
    obtain rfl := Host.Outcome.next.inj h
    exact stopEvent_keepsAgents s
  case evTx =>
    rcases evTx_cases s t h with ⟨-, -, b, -, rfl⟩ | ⟨-, rfl⟩ <;> exact ⟨rfl, _, rfl⟩
  case evRx d =>
    rw [exec_evRx] at h
    obtain rfl := Host.Outcome.next.inj h
    split <;> exact ⟨rfl, _, rfl⟩
  case evNone =>
    obtain rfl := Host.Outcome.next.inj h
    exact ⟨rfl, _, rfl⟩
  all_goals simp [Instr.isEvent] at hi

theorem exec_cbret_keepsAgents {acc : Bool} {s t : State} (h : exec (.cbret acc) s = .next t) : KeepsAgents s t := by
  rcases Option.eq_none_or_eq_some s.burst with hb | ⟨b, hb⟩
  · obtain ⟨u, hu, hcases⟩ := execCbret_cases acc s hb
    obtain rfl : u = t := Host.Outcome.next.inj (hu.symm.trans h)
    rcases hcases with ⟨-, rfl⟩ | ⟨-, -, rfl⟩ | ⟨-, -, -, rfl⟩ | ⟨-, -, -, -, rfl⟩ | ⟨-, -, -, -, rfl⟩ | ⟨-, rfl⟩ | ⟨-, rfl⟩ <;>
      exact ⟨rfl, _, rfl⟩
  · simp only [exec, execCbret, command_open _ s hb, Host.Outcome.next.injEq] at h
    subst h
    exact ⟨rfl, _, rfl⟩

theorem exec_command_keepsAgents {i : Instr} {s t : State} (hi : i.isEvent = false) (hc : ∀ acc, i ≠ .cbret acc)
    (h : exec i s = .next t) : KeepsAgents s t := by
  rcases command_cases i s t hi hc h with ⟨r, rfl⟩ | ⟨b, -, -, rfl⟩ | ⟨n, -, -, rfl⟩ | ⟨n, bytes, b, -, -, rfl⟩ |
    ⟨n, bytes, -, rfl⟩ | ⟨b, -, -, -, -, rfl⟩ | ⟨m, -, rfl⟩ | ⟨e, -, rfl⟩
  -- opening a burst and keeping a beat of it emit nothing (R154)
  case inr.inr.inl | inr.inr.inr.inl => exact ⟨rfl, [], List.append_nil _⟩
  all_goals exact ⟨rfl, _, rfl⟩

theorem exec_keepsAgents {i : Instr} {s t : State} (h : exec i s = .next t) : KeepsAgents s t := by
  cases hi : i.isEvent with
  | true => exact exec_event_keepsAgents hi h
  | false =>
    by_cases hc : ∃ acc, i = .cbret acc
    · obtain ⟨acc, rfl⟩ := hc
      exact exec_cbret_keepsAgents h
    · exact exec_command_keepsAgents hi (not_exists.mp hc) h

/-- Settles O9: each part of an invocation and each command keeps the agents' side and only appends to the trace. -/
theorem instructionsLeaveTheAgentsAlone : Obligations.InstructionsLeaveTheAgentsAlone := by
  intro i s t h
  exact (keepsAgents_iff s t).mp (exec_keepsAgents h)

/-! ### A read outside the buffer -/

theorem exec_evTx_fault (s : State) (hlt : s.txIdx.toNat < s.txLen.toNat) (hC : s.C ≤ s.txIdx.toNat) :
    exec .evTx s = .fault .bufferIndexOutOfRange := by
  simp [exec_evTx, hlt, bufRead_outside s hC]

theorem exec_deq_peek_fault {i : Instr} (hi : i = .deq ∨ i = .peek) (s : State) (hb : s.burst = none)
    (hlt : s.rxIdx.toNat < s.rxLen.toNat) (hC : s.C ≤ s.rxIdx.toNat) : exec i s = .fault .bufferIndexOutOfRange := by
  rcases hi with rfl | rfl
  · simp [exec_deq s hb, hlt, bufRead_outside s hC]
  · simp [exec_peek s hb, hlt, bufRead_outside s hC]

/-! ### Every other case answers a next state -/

/-- An index inside its region and not at or above `C` reads a byte. -/
theorem bufRead_of_inside (s : State) {i len : Nat} (h : len ≤ i ∨ i < s.C) (hlt : i < len) :
    ∃ b, bufRead s i = some b := by
  obtain ⟨b, hb, -⟩ := bufRead_some s (h.resolve_left (Nat.not_le.mpr hlt))
  exact ⟨b, hb⟩

theorem exec_evTx_next (s : State) (h : s.txLen.toNat ≤ s.txIdx.toNat ∨ s.txIdx.toNat < s.C) :
    ∃ t, exec .evTx s = .next t := by
  by_cases hlt : s.txIdx.toNat < s.txLen.toNat
  · obtain ⟨b, hr⟩ := bufRead_of_inside s h hlt
    simp [exec_evTx, hlt, hr]
  · simp [exec_evTx, hlt]

/-- Inside a burst the guard answers for the command (R155). -/
theorem exec_deq_peek_next {i : Instr} (hi : i = .deq ∨ i = .peek) (s : State)
    (h : s.burst ≠ none ∨ s.rxLen.toNat ≤ s.rxIdx.toNat ∨ s.rxIdx.toNat < s.C) : ∃ t, exec i s = .next t := by
  rcases Option.eq_none_or_eq_some s.burst with hb | ⟨b, hb⟩
  · by_cases hlt : s.rxIdx.toNat < s.rxLen.toNat
    · obtain ⟨b, hr⟩ := bufRead_of_inside s (h.resolve_left (absurd hb)) hlt
      rcases hi with rfl | rfl
      · simp [exec_deq s hb, hlt, hr]
      · simp [exec_peek s hb, hlt, hr]
    · rcases hi with rfl | rfl
      · simp [exec_deq s hb, hlt]
      · simp [exec_peek s hb, hlt]
  · rcases hi with rfl | rfl
    · simp [exec, execDeq, command_open _ s hb]
    · simp [exec, execPeek, command_open _ s hb]

/-- A command whose meaning is a next state has one inside a burst too (R155). -/
theorem command_next (f : State → State) (s : State) : ∃ t, command (fun s => .next (f s)) s = .next t := by
  rcases Option.eq_none_or_eq_some s.burst with hb | ⟨b, hb⟩
  · exact ⟨f s, command_closed _ s hb⟩
  · exact ⟨_, command_open _ s hb⟩

theorem exec_beat_next (b : Byte) (s : State) : ∃ t, exec (.beat b) s = .next t := by
  rcases Option.eq_none_or_eq_some s.burst with hb | ⟨⟨n, bytes⟩, hb⟩ <;> simp [exec, execBeat, hb]

/-- An instruction that reads no byte of the buffer answers a next state. -/
theorem exec_next_of_no_read (i : Instr) (s : State) (htx : i ≠ .evTx) (hdeq : i ≠ .deq) (hpeek : i ≠ .peek) :
    ∃ t, exec i s = .next t := by
  cases i
  case evTx => exact absurd rfl htx
  case deq => exact absurd rfl hdeq
  case peek => exact absurd rfl hpeek
  case evBerr | evColl | evAddr | evAddrCont | evStop | evRx | evNone => exact ⟨_, rfl⟩
  case beat b => exact exec_beat_next b s
  all_goals
    simp only [exec, execEnq, execEnqn, execAvail, execSetcb, execSetie, execCbret, execReserved0, execReserved9,
      execReservedA, execReservedB, execReservedC, execReservedD, execReservedE, illegalCommand]
    exact command_next _ s

/-- Settles O31: the fault at each of the three reads, and a next state for an instruction that reads in range or not at all. -/
theorem onlyAReadOutsideTheBufferStops : Obligations.OnlyAReadOutsideTheBufferStops := by
  refine ⟨exec_evTx_fault, fun i s hi => exec_deq_peek_fault hi s, ?_⟩
  intro i s htx hrx
  by_cases hevTx : i = .evTx
  · subst hevTx
    exact exec_evTx_next s (htx.resolve_left (absurd rfl))
  by_cases hi : i = .deq ∨ i = .peek
  · exact exec_deq_peek_next hi s (hrx.resolve_left fun ⟨hdeq, hpeek⟩ => hi.elim hdeq hpeek)
  · obtain ⟨hdeq, hpeek⟩ := not_or.mp hi
    exact exec_next_of_no_read i s hevTx hdeq hpeek

end Sys2Proof.Machine
end

section
/-! The invariant of the state (10_state.md R27, R33, R38, R39, R43): every step keeps it. -/

namespace Sys2Proof.Machine

/-! ### The buffer's half of the invariant -/

/-- The clauses of `State.Inv` about the buffer, over the elements they speak of (R27, R43, R50). -/
structure BufferInv (C : Nat) (buf : Memory) (rxIdx rxLen txIdx txLen : Index) : Prop where
  rxLen_le : rxLen.toNat ≤ C
  txLen_le : txLen.toNat ≤ C
  rxIdx_le : rxIdx.toNat ≤ C
  txIdx_le : txIdx.toNat ≤ C
  wf : Memory.wf buf = true
  below : Memory.below C buf = true
  written : ∀ i, i < max rxLen.toNat txLen.toNat → (buf.read i).isSome = true

/-- The same clauses, of a state. An update of the state that leaves these elements alone keeps them by definition. -/
abbrev State.BufferSafe (s : State) : Prop := BufferInv s.C s.buf s.rxIdx s.rxLen s.txIdx s.txLen

theorem State.inv_iff (s : State) : s.Inv ↔ s.BufferSafe ∧ s.BurstUnfinished ∧ s.WaitsInDirection := by
  constructor
  · rintro ⟨⟨hrl, htl, hri, hti⟩, ⟨hwf, hbelow⟩, hwritten, hburst, hwaits⟩
    exact ⟨⟨hrl, htl, hri, hti, hwf, hbelow, hwritten⟩, hburst, hwaits⟩
  · rintro ⟨⟨hrl, htl, hri, hti, hwf, hbelow, hwritten⟩, hburst, hwaits⟩
    exact ⟨⟨hrl, htl, hri, hti⟩, ⟨hwf, hbelow⟩, hwritten, hburst, hwaits⟩

theorem State.Inv.buffer {s : State} (h : s.Inv) : s.BufferSafe := ((State.inv_iff s).mp h).1

theorem State.inv_of {s : State} (hbuffer : s.BufferSafe) (hburst : s.BurstUnfinished)
    (hwaits : s.WaitsInDirection) : s.Inv :=
  (State.inv_iff s).mpr ⟨hbuffer, hburst, hwaits⟩

/-- No clause speaks of the ports or the timeline. -/
theorem State.Inv.with_ports {s : State} (h : s.Inv) (evs : List EventWord) (cmds : List CommandWord)
    (rest : List PortWord) : { s with evIn := evs, cmdIn := cmds, timeline := rest }.Inv :=
  State.inv_of h.buffer h.burst h.waits

theorem index_succ_le {x : Index} {n : Nat} (h : x.toNat < n) (hn : n ≤ 255) : (x + 1).toNat ≤ n :=
  (index_succ_toNat x h hn).trans_le h

section
variable {C : Nat} {buf : Memory} {rxIdx rxLen txIdx txLen : Index}

theorem BufferInv.empty (C : Nat) : BufferInv C [] 0 0 0 0 where
  rxLen_le := Nat.zero_le _
  txLen_le := Nat.zero_le _
  rxIdx_le := Nat.zero_le _
  txIdx_le := Nat.zero_le _
  wf := rfl
  below := rfl
  written := fun _ hi => absurd hi (Nat.not_lt_zero _)

theorem BufferInv.set_rxIdx (h : BufferInv C buf rxIdx rxLen txIdx txLen) {x : Index} (hx : x.toNat ≤ C) :
    BufferInv C buf x rxLen txIdx txLen :=
  { h with rxIdx_le := hx }

theorem BufferInv.set_txIdx (h : BufferInv C buf rxIdx rxLen txIdx txLen) {x : Index} (hx : x.toNat ≤ C) :
    BufferInv C buf rxIdx rxLen x txLen :=
  { h with txIdx_le := hx }

/-- Bytes are stored from `a` on, and the new lengths cover old regions and stored bytes alone (R43, R53). -/
theorem BufferInv.store (h : BufferInv C buf rxIdx rxLen txIdx txLen) {a : Nat} {bytes : List Byte} {rl tl : Index}
    (hroom : a + bytes.length ≤ C) (hrl : rl.toNat ≤ C) (htl : tl.toNat ≤ C)
    (hcover : ∀ i, i < max rl.toNat tl.toNat → i < max rxLen.toNat txLen.toNat ∨ a ≤ i ∧ i < a + bytes.length) :
    BufferInv C (buf.writeAll a bytes) rxIdx rl txIdx tl where
  rxLen_le := hrl
  txLen_le := htl
  rxIdx_le := h.rxIdx_le
  txIdx_le := h.txIdx_le
  wf := Memory.wf_writeAll bytes buf a h.wf
  below := Memory.below_writeAll bytes buf hroom h.below
  written := by
    intro i hi
    rw [Memory.read_writeAll]
    split
    · rw [isSome_getElem?]; omega
    · exact h.written i ((hcover i hi).resolve_right ‹_›)

/-- A region can be emptied at any time (R110, R111). -/
theorem BufferInv.empty_rx (h : BufferInv C buf rxIdx rxLen txIdx txLen) : BufferInv C buf rxIdx 0 txIdx txLen :=
  { h with
    rxLen_le := Nat.zero_le _
    written := fun i hi => h.written i (hi.trans_le (max_le_max (Nat.zero_le _) le_rfl)) }

theorem BufferInv.empty_tx (h : BufferInv C buf rxIdx rxLen txIdx txLen) : BufferInv C buf rxIdx rxLen txIdx 0 :=
  { h with
    txLen_le := Nat.zero_le _
    written := fun i hi => h.written i (hi.trans_le (max_le_max le_rfl (Nat.zero_le _))) }

/-- A received byte is stored at `rxLen`, which then counts it (R119). -/
theorem BufferInv.receive (h : BufferInv C buf rxIdx rxLen txIdx txLen) (hC : C ≤ 255) (hlt : rxLen.toNat < C) (d : Byte) :
    BufferInv C (buf.write rxLen.toNat d) rxIdx (rxLen + 1) txIdx txLen := by
  have hsucc := index_succ_toNat rxLen hlt hC
  have hlen : [d].length = 1 := rfl
  exact h.store (bytes := [d]) (by omega) (by omega) h.txLen_le fun i hi => by omega

/-- Bytes are staged from `txLen` on, which then counts them (R152, R153). -/
theorem BufferInv.stage (h : BufferInv C buf rxIdx rxLen txIdx txLen) {bytes : List Byte} {tl : Index}
    (htl : tl.toNat = txLen.toNat + bytes.length) (hroom : txLen.toNat + bytes.length ≤ C) :
    BufferInv C (buf.writeAll txLen.toNat bytes) rxIdx rxLen txIdx tl :=
  h.store hroom h.rxLen_le (by omega) fun i hi => by omega

end

/-! ### The parts of an invocation -/

theorem waitsInDirection_of_ready {s : State} (hc : s.cst = .ready) : s.WaitsInDirection := by
  simp [State.WaitsInDirection, hc]

theorem acceptWrite_inv {s : State} (h : s.BufferSafe) (hb : s.BurstUnfinished) :
    (acceptWrite s).Inv := by
  rw [acceptWrite_eq]
  exact State.inv_of h.empty_rx hb trivial

/-- An accepted read waits for `REQ` as a read transaction, with no address in assembly (R111). -/
theorem acceptRead_inv {s : State} (h : s.BufferSafe) (hb : s.BurstUnfinished)
    (he : s.extp = false) : (acceptRead s).Inv := by
  rcases acceptRead_cases s with ⟨-, hs⟩ | ⟨-, hs⟩ <;> rw [hs]
  · exact State.inv_of h.empty_tx hb ⟨rfl, he⟩
  · exact State.inv_of (h.empty_tx.set_txIdx (Nat.zero_le _)) hb trivial

theorem finishStop_inv {s : State} (h : s.BufferSafe) (hb : s.BurstUnfinished) :
    (finishStop s).Inv :=
  State.inv_of h hb trivial

theorem dispatchAddress_inv (a : BitVec 10) {s : State} (h : s.BufferSafe)
    (hb : s.BurstUnfinished) (he : s.extp = false) : (dispatchAddress a s).Inv := by
  rcases dispatchAddress_cases a s with ⟨-, hs⟩ | ⟨-, -, hs⟩ | ⟨-, -, hs⟩ <;> rw [hs]
  · exact State.inv_of h hb he
  · exact acceptWrite_inv h hb
  · exact acceptRead_inv h hb he

theorem addressEvent_inv (dir : Bool) (d : Byte) {s : State} (h : s.Inv) (hc : s.cst = .ready) :
    (addressEvent dir d s).Inv := by
  rcases addressEvent_cases dir d s with ⟨-, -, hs⟩ | ⟨he, -, hs⟩ | ⟨-, hs⟩ <;> rw [hs]
  · exact State.inv_of h.buffer h.burst (waitsInDirection_of_ready hc)
  · exact dispatchAddress_inv _ h.buffer h.burst he
  · exact dispatchAddress_inv _ h.buffer h.burst rfl

theorem stopEvent_inv {s : State} (h : s.Inv) : (stopEvent s).Inv := by
  rcases stopEvent_cases s with ⟨hx, -, hs⟩ | ⟨hx, -, hs⟩ | ⟨-, -, hs⟩ | ⟨-, -, hs⟩ | ⟨-, hs⟩ <;> rw [hs]
  · exact State.inv_of h.buffer h.burst hx
  · exact State.inv_of (h.buffer.set_rxIdx (Nat.zero_le _)) h.burst hx
  · exact finishStop_inv (h.buffer.set_rxIdx (Nat.zero_le _)) h.burst
  · exact finishStop_inv h.buffer h.burst
  · exact finishStop_inv h.buffer h.burst

/-! ### Instructions, arrivals and the step -/

/-- Events are accepted in `READY` alone (R100), where no invocation waits. -/
theorem exec_event_inv {i : Instr} {s t : State} (hi : i.isEvent = true) (h : s.Inv) (hc : s.cst = .ready)
    (ht : exec i s = .next t) : t.Inv := by
  have hready {u : State} (hu : u.BufferSafe) (hb : u.burst = s.burst)
      (hcu : u.cst = s.cst) : u.Inv :=
    State.inv_of hu (by rw [State.BurstUnfinished, hb]; exact h.burst) (waitsInDirection_of_ready (hcu.trans hc))
  cases i
  case evBerr | evColl =>
    obtain rfl := Host.Outcome.next.inj ht
    rw [errorEvent_eq]
    exact hready h.buffer rfl rfl
  case evAddr dir d | evAddrCont dir d =>
    obtain rfl := Host.Outcome.next.inj ht
    exact addressEvent_inv dir d h hc
  case evStop =>
    obtain rfl := Host.Outcome.next.inj ht
    exact stopEvent_inv h
  case evTx =>
    rcases evTx_cases s t ht with ⟨-, hC, b, -, rfl⟩ | ⟨-, rfl⟩
    · exact hready (h.buffer.set_txIdx (index_succ_le hC s.C_le)) rfl rfl
    · exact hready h.buffer rfl rfl
  case evRx d =>
    rw [exec_evRx] at ht
    obtain rfl := Host.Outcome.next.inj ht
    split
    · exact hready (h.buffer.receive s.C_le ‹_› d) rfl rfl
    · exact hready h.buffer rfl rfl
  case evNone =>
    obtain rfl := Host.Outcome.next.inj ht
    exact hready h.buffer rfl rfl
  all_goals simp [Instr.isEvent] at hi

theorem exec_cbret_inv {acc : Bool} {s t : State} (h : s.Inv) (ht : exec (.cbret acc) s = .next t) : t.Inv := by
  rcases Option.eq_none_or_eq_some s.burst with hb | ⟨b, hb⟩
  · obtain ⟨u, hu, hcases⟩ := execCbret_cases acc s hb
    obtain rfl : u = t := Host.Outcome.next.inj (hu.symm.trans ht)
    rcases hcases with ⟨-, rfl⟩ | ⟨-, -, rfl⟩ | ⟨-, -, -, rfl⟩ | ⟨hw, -, -, -, rfl⟩ |
      ⟨-, -, -, -, rfl⟩ | ⟨-, rfl⟩ | ⟨-, rfl⟩
    · exact State.inv_of h.buffer h.burst h.waits
    · exact State.inv_of h.buffer h.burst trivial
    · exact State.inv_of h.buffer.empty_rx h.burst trivial
    · have he : s.extp = false := by simpa [State.WaitsInDirection, hw] using h.waits
      exact State.inv_of h.buffer.empty_tx h.burst ⟨rfl, he⟩
    · exact State.inv_of (h.buffer.empty_tx.set_txIdx (Nat.zero_le _)) h.burst trivial
    · exact State.inv_of (h.buffer.set_txIdx (Nat.zero_le _)) h.burst trivial
    · exact State.inv_of h.buffer h.burst trivial
  · simp only [exec, execCbret, command_open _ s hb, Host.Outcome.next.injEq] at ht
    subst ht
    exact State.inv_of h.buffer rfl h.waits

/-- A complete burst stages as many of its bytes as fit (R153). -/
theorem enqnExec_inv {n : Byte} {bytes : List Byte} {s : State} (hn : bytes.length = n.toNat) (h : s.Inv) :
    (enqnExec n bytes s).Inv := by
  have hlen : (bytes.take (stageable n s)).length = stageable n s := by
    rw [List.length_take, hn]; exact Nat.min_eq_left (Nat.min_le_left _ _)
  have hroom : s.txLen.toNat + stageable n s ≤ s.C := by
    have := h.buffer.txLen_le
    simp only [stageable]; omega
  rw [enqnExec_eq]
  exact State.inv_of (h.buffer.stage (by rw [hlen]; exact txLen_add_stageable n s) (by rwa [hlen])) rfl h.waits

theorem exec_command_inv {i : Instr} {s t : State} (hi : i.isEvent = false) (hc : ∀ acc, i ≠ .cbret acc) (h : s.Inv)
    (ht : exec i s = .next t) : t.Inv := by
  rcases command_cases i s t hi hc ht with ⟨r, rfl⟩ | ⟨b, -, hlt, rfl⟩ | ⟨n, hn, -, rfl⟩ | ⟨n, bytes, b, hb, hn, rfl⟩ |
    ⟨n, bytes, hn, rfl⟩ | ⟨b, -, -, hC, -, rfl⟩ | ⟨m, -, rfl⟩ | ⟨e, -, rfl⟩
  · exact State.inv_of h.buffer rfl h.waits
  · have hsucc := index_succ_toNat s.txLen hlt s.C_le
    exact State.inv_of (h.buffer.stage (bytes := [b]) hsucc hlt) h.burst h.waits
  · have hpos : 0 < n.toNat := Nat.pos_of_ne_zero fun h0 => hn (BitVec.eq_of_toNat_eq h0)
    exact State.inv_of h.buffer (by simpa [State.BurstUnfinished, Burst.unfinished] using hpos) h.waits
  · have hlt : bytes.length < n.toNat := by simpa [State.BurstUnfinished, Burst.unfinished, hb] using h.burst
    have hlt' : bytes.length + 1 < n.toNat := by omega
    exact State.inv_of h.buffer (by simpa [State.BurstUnfinished, Burst.unfinished] using hlt') h.waits
  · exact enqnExec_inv hn h
  · exact State.inv_of (h.buffer.set_rxIdx (index_succ_le hC s.C_le)) h.burst h.waits
  · exact State.inv_of h.buffer h.burst h.waits
  · exact State.inv_of h.buffer h.burst h.waits

/-- An instruction keeps the invariant; an event, where it can be accepted. -/
theorem exec_inv {i : Instr} {s t : State} (h : s.Inv) (hc : i.isEvent = true → s.cst = .ready)
    (ht : exec i s = .next t) : t.Inv := by
  cases hi : i.isEvent with
  | true => exact exec_event_inv hi h (hc hi) ht
  | false =>
    by_cases hcb : ∃ acc, i = .cbret acc
    · obtain ⟨acc, rfl⟩ := hcb
      exact exec_cbret_inv h ht
    · exact exec_command_inv hi (not_exists.mp hcb) h ht

theorem resetInput_inv (s : State) : (resetInput s).Inv := State.inv_of (BufferInv.empty _) rfl trivial

theorem arrive_inv {s : State} (h : s.Inv) : (arrive s).Inv := by
  rcases arrive_cases s with ⟨rest, -, hs⟩ | ⟨evs, cmds, rest, hs⟩ <;> rw [hs]
  · exact resetInput_inv _
  · exact h.with_ports _ _ _

theorem step_inv {s t : State} (h : s.Inv) (ht : step s = .next t) : t.Inv := by
  rcases step_cases s with ⟨ha, w, ws, -, hs⟩ | ⟨-, c, cs, -, hs⟩ | ⟨-, -, hs⟩ <;> rw [hs] at ht
  · obtain ⟨hc, -, -⟩ := (acceptsEvent_iff s).mp ha
    exact exec_inv (h.with_ports ws s.cmdIn s.timeline) (fun _ => hc) ht
  · exact exec_inv (h.with_ports s.evIn cs s.timeline) (fun hi => by simp [decodeCommand_isEvent] at hi) ht
  · obtain rfl := Host.Outcome.next.inj ht
    exact arrive_inv h

/-- Settles O47: an instruction keeps the invariant, and so do the reset input and an arrival. -/
theorem everyStepKeepsTheInvariant : Obligations.EveryStepKeepsTheInvariant := by
  intro s t h ht
  exact step_inv h ht

end Sys2Proof.Machine
end

section
/-! The word a step takes (R38), the reset values (R42), and that no output shows the unspecified reset contents (R43). -/

namespace Sys2Proof.Machine

/-! ### The word a step takes -/

theorem step_of_event {s : State} {w : EventWord} {ws : List EventWord} (ha : acceptsEvent s = true)
    (h : s.evIn = w :: ws) : step s = exec (decodeEvent s.extp w) { s with evIn := ws } := by
  rw [step, takeWord_event s ha h]

theorem step_of_command {s : State} {c : CommandWord} {cs : List CommandWord} (ha : acceptsEvent s = false ∨ s.evIn = [])
    (h : s.cmdIn = c :: cs) : step s = exec (decodeCommand c) { s with cmdIn := cs } := by
  rw [step, takeWord_command s ha h]

theorem step_of_nothing {s : State} (ha : acceptsEvent s = false ∨ s.evIn = []) (h : s.cmdIn = []) :
    step s = .next (arrive s) := by
  rw [step, takeWord_none s ha h]

theorem acceptsEvent_eq_false_or_iff (s : State) : acceptsEvent s = false ∨ s.evIn = [] ↔
    s.cst ≠ .ready ∨ s.ie = false ∨ s.burst ≠ none ∨ s.evIn = [] := by
  rw [← Bool.not_eq_true, acceptsEvent_iff]
  cases s.ie
  · simp
  · simp only [not_and_or]
    tauto

/-- Settles O7: the word `takeWord` answers, and the instruction it stands for. -/
theorem stepRunsTheDecodedInstruction : Obligations.StepRunsTheDecodedInstruction := by
  refine ⟨fun s w ws hc hie hb => ?_, fun s c cs ha => ?_, fun s ha => ?_⟩
  · exact step_of_event ((acceptsEvent_iff s).mpr ⟨hc, hie, hb⟩)
  · exact step_of_command ((acceptsEvent_eq_false_or_iff s).mpr ha)
  · exact step_of_nothing ((acceptsEvent_eq_false_or_iff s).mpr ha)

/-! ### The values after reset -/

/-- Settles O44: the reset table, read off `State.resetAt`. -/
theorem resetLeavesTheValuesOfTheSpec : Obligations.ResetLeavesTheValuesOfTheSpec := by
  refine ⟨⟨Config.capacity, rfl⟩, ?_⟩
  rintro cap s rfl
  exact ⟨rfl, rfl, rfl, rfl, rfl, rfl, rfl, rfl, rfl, rfl, rfl, rfl, rfl, rfl, State.C_pos _, State.C_le _⟩

theorem resetAt_inv (cap : Capacity) : (State.resetAt cap).Inv := State.inv_of (BufferInv.empty _) rfl trivial

/-- Settles O46: after reset both regions are empty and nothing waits. -/
theorem invariantHoldsAtReset : Obligations.InvariantHoldsAtReset := ⟨resetAt_inv _, resetAt_inv⟩

/-! ### The draw of the reset contents -/

/-- The same state with another draw of the unspecified reset contents (log entry 2). -/
def State.redraw (draw : Nat) (s : State) : State := { s with bufDraw := draw }

/-- The same answer with another draw in its next state. -/
def redrawNext (draw : Nat) : Host.Outcome State Fault Refusal → Host.Outcome State Fault Refusal
  | .next t => .next (t.redraw draw)
  | .fault r => .fault r
  | .refused r => .refused r

@[simp] theorem redrawNext_next (draw : Nat) (t : State) : redrawNext draw (.next t) = .next (t.redraw draw) := rfl

/-- The draw shows in a read of an unwritten index alone (R42, R43). -/
theorem bufRead_redraw (draw : Nat) {s : State} {i : Nat} (h : (s.buf.read i).isSome = true) :
    bufRead (s.redraw draw) i = bufRead s i := by
  obtain ⟨b, hb⟩ := Option.isSome_iff_exists.mp h
  have hb' : (s.redraw draw).buf.read i = some b := hb
  simp only [bufRead, hb, hb', Option.getD_some]
  rfl

theorem bufRead_rx_redraw (draw : Nat) {s : State} (h : s.Inv) (hlt : s.rxIdx.toNat < s.rxLen.toNat) :
    bufRead (s.redraw draw) s.rxIdx.toNat = bufRead s s.rxIdx.toNat :=
  bufRead_redraw draw (h.written _ (lt_max_of_lt_left hlt))

theorem bufRead_tx_redraw (draw : Nat) {s : State} (h : s.Inv) (hlt : s.txIdx.toNat < s.txLen.toNat) :
    bufRead (s.redraw draw) s.txIdx.toNat = bufRead s s.txIdx.toNat :=
  bufRead_redraw draw (h.written _ (lt_max_of_lt_right hlt))

@[simp] theorem redraw_extp (draw : Nat) (s : State) : (s.redraw draw).extp = s.extp := rfl
@[simp] theorem redraw_xst (draw : Nat) (s : State) : (s.redraw draw).xst = s.xst := rfl
@[simp] theorem redraw_cst (draw : Nat) (s : State) : (s.redraw draw).cst = s.cst := rfl
@[simp] theorem redraw_burst (draw : Nat) (s : State) : (s.redraw draw).burst = s.burst := rfl
@[simp] theorem redraw_rxIdx (draw : Nat) (s : State) : (s.redraw draw).rxIdx = s.rxIdx := rfl
@[simp] theorem redraw_rxLen (draw : Nat) (s : State) : (s.redraw draw).rxLen = s.rxLen := rfl
@[simp] theorem redraw_txIdx (draw : Nat) (s : State) : (s.redraw draw).txIdx = s.txIdx := rfl
@[simp] theorem redraw_txLen (draw : Nat) (s : State) : (s.redraw draw).txLen = s.txLen := rfl
@[simp] theorem redraw_timeline (draw : Nat) (s : State) : (s.redraw draw).timeline = s.timeline := rfl

section
variable (draw : Nat) (s : State)

theorem acceptRead_redraw : acceptRead (s.redraw draw) = (acceptRead s).redraw draw := by
  rw [acceptRead_eq, acceptRead_eq, apply_ite (State.redraw draw)]
  rfl

theorem dispatchAddress_redraw (a : BitVec 10) :
    dispatchAddress a (s.redraw draw) = (dispatchAddress a s).redraw draw := by
  rw [dispatchAddress_eq, dispatchAddress_eq, acceptRead_redraw, apply_ite (State.redraw draw),
    apply_ite (State.redraw draw)]
  rfl

theorem freshAddress_redraw (d : Byte) : freshAddress d (s.redraw draw) = (freshAddress d s).redraw draw := by
  cases ht : isTenBitStart d <;> simp only [freshAddress, ht]
  · exact dispatchAddress_redraw draw { s with addr := rawAddress d, sc := nextStartCount s.sc } (resolvedAddress d)
  · rfl

theorem addressEvent_redraw (dir : Bool) (d : Byte) :
    addressEvent dir d (s.redraw draw) = (addressEvent dir d s).redraw draw := by
  simp only [addressEvent, apply_ite (State.redraw draw), ← freshAddress_redraw, secondAddressByte,
    ← dispatchAddress_redraw]
  rfl

theorem stopEvent_redraw : stopEvent (s.redraw draw) = (stopEvent s).redraw draw := by
  cases hx : s.xst <;> simp only [stopEvent, redraw_xst, hx]
  case idle => rfl
  case rx =>
    rw [stopAfterReceive_eq, stopAfterReceive_eq, apply_ite (State.redraw draw)]
    rfl
  case tx =>
    rw [apply_ite (State.redraw draw)]
    rfl

theorem addressDecision_redraw (acc : Bool) :
    addressDecision acc (s.redraw draw) = (addressDecision acc s).redraw draw := by
  simp only [addressDecision, acceptRead_redraw, apply_ite (State.redraw draw)]
  rfl

end

theorem command_redraw (draw : Nat) {run : State → Host.Outcome State Fault Refusal} {s : State}
    (h : s.burst = none → run (s.redraw draw) = redrawNext draw (run s)) :
    command run (s.redraw draw) = redrawNext draw (command run s) := by
  rcases Option.eq_none_or_eq_some s.burst with hb | ⟨b, hb⟩
  · rw [command_closed _ s hb, command_closed _ (s.redraw draw) hb, h hb]
  · rw [command_open _ s hb, command_open _ (s.redraw draw) hb]
    rfl

/-- A command that reads no byte of the buffer (R155). -/
theorem command_next_redraw (draw : Nat) {f : State → State} {s : State}
    (h : f (s.redraw draw) = (f s).redraw draw) :
    command (fun s => .next (f s)) (s.redraw draw) = redrawNext draw (command (fun s => .next (f s)) s) :=
  command_redraw draw fun _ => congrArg Host.Outcome.next h

theorem exec_evTx_redraw (draw : Nat) {s : State} (h : s.Inv) :
    exec .evTx (s.redraw draw) = redrawNext draw (exec .evTx s) := by
  rw [exec_evTx, exec_evTx]
  by_cases hlt : s.txIdx.toNat < s.txLen.toNat
  · simp only [redraw_txIdx, redraw_txLen, hlt, if_true, bufRead_tx_redraw draw h hlt]
    cases bufRead s s.txIdx.toNat <;> rfl
  · simp only [redraw_txIdx, redraw_txLen, hlt, if_false]
    rfl

theorem exec_deq_peek_redraw (draw : Nat) {i : Instr} (hi : i = .deq ∨ i = .peek) {s : State} (h : s.Inv) :
    exec i (s.redraw draw) = redrawNext draw (exec i s) := by
  rcases hi with rfl | rfl
  all_goals
    simp only [exec, execDeq, execPeek]
    refine command_redraw draw fun _ => ?_
    by_cases hlt : s.rxIdx.toNat < s.rxLen.toNat
    · simp only [rxUnread, redraw_rxIdx, redraw_rxLen, hlt, decide_true, if_true, bufRead_rx_redraw draw h hlt]
      cases bufRead s s.rxIdx.toNat <;> rfl
    · simp only [rxUnread, redraw_rxIdx, redraw_rxLen, hlt]
      rfl

theorem exec_event_redraw (draw : Nat) {i : Instr} {s : State} (hi : i.isEvent = true) (h : s.Inv) :
    exec i (s.redraw draw) = redrawNext draw (exec i s) := by
  cases i
  case evBerr | evColl | evNone => rfl
  case evAddr dir d | evAddrCont dir d => exact congrArg Host.Outcome.next (addressEvent_redraw draw s dir d)
  case evStop => exact congrArg Host.Outcome.next (stopEvent_redraw draw s)
  case evTx => exact exec_evTx_redraw draw h
  case evRx d =>
    rw [exec_evRx, exec_evRx, redrawNext_next, apply_ite (State.redraw draw)]
    rfl
  all_goals simp [Instr.isEvent] at hi

theorem exec_cbret_redraw (draw : Nat) (acc : Bool) (s : State) :
    exec (.cbret acc) (s.redraw draw) = redrawNext draw (exec (.cbret acc) s) := by
  simp only [exec, execCbret]
  refine command_next_redraw draw ?_
  cases hc : s.cst <;> simp only [redraw_cst, hc]
  case wAddr => exact addressDecision_redraw draw (respond .ack s) acc
  all_goals rfl

theorem exec_beat_redraw (draw : Nat) (b : Byte) (s : State) :
    exec (.beat b) (s.redraw draw) = redrawNext draw (exec (.beat b) s) := by
  rcases Option.eq_none_or_eq_some s.burst with hb | ⟨⟨n, bytes⟩, hb⟩ <;>
    simp only [exec, execBeat, redraw_burst, hb, redrawNext_next, apply_ite (State.redraw draw)] <;> rfl

theorem exec_command_redraw (draw : Nat) {i : Instr} {s : State} (hi : i.isEvent = false) (h : s.Inv) :
    exec i (s.redraw draw) = redrawNext draw (exec i s) := by
  cases i
  case deq => exact exec_deq_peek_redraw draw (.inl rfl) h
  case peek => exact exec_deq_peek_redraw draw (.inr rfl) h
  case cbret acc => exact exec_cbret_redraw draw acc s
  case beat b => exact exec_beat_redraw draw b s
  case evBerr | evColl | evAddr | evAddrCont | evStop | evTx | evRx | evNone => simp [Instr.isEvent] at hi
  all_goals
    simp only [exec, execEnq, execEnqn, execAvail, execSetcb, execSetie, execReserved0, execReserved9, execReservedA,
      execReservedB, execReservedC, execReservedD, execReservedE, illegalCommand]
    refine command_next_redraw draw ?_
  case enq b | enqn n =>
    rw [apply_ite (State.redraw draw)]
    rfl
  all_goals rfl

/-- From a state that meets the invariant no instruction observes the draw (R43). -/
theorem exec_redraw (draw : Nat) (i : Instr) {s : State} (h : s.Inv) :
    exec i (s.redraw draw) = redrawNext draw (exec i s) := by
  cases hi : i.isEvent with
  | true => exact exec_event_redraw draw hi h
  | false => exact exec_command_redraw draw hi h

/-- An arrival keeps the draw, and the reset input draws anew (R230). -/
theorem arrive_redraw (draw : Nat) (s : State) : ∃ draw', arrive (s.redraw draw) = (arrive s).redraw draw' := by
  rcases htl : s.timeline with _ | ⟨w | c | _, rest⟩ <;> simp only [arrive, redraw_timeline, htl]
  case cons.reset => exact ⟨draw + 1, rfl⟩
  all_goals exact ⟨draw, rfl⟩

theorem step_redraw (draw : Nat) {s t : State} (h : s.Inv) (ht : step s = .next t) :
    ∃ draw', step (s.redraw draw) = .next (t.redraw draw') := by
  rcases step_cases s with ⟨ha, w, ws, he, hs⟩ | ⟨ha, c, cs, hc, hs⟩ | ⟨ha, hc, hs⟩ <;> rw [hs] at ht
  · refine ⟨draw, ?_⟩
    rw [step_of_event (s := s.redraw draw) ha he, ← redrawNext_next, ← ht]
    exact exec_redraw draw _ (h.with_ports ws s.cmdIn s.timeline)
  · refine ⟨draw, ?_⟩
    rw [step_of_command (s := s.redraw draw) ha hc, ← redrawNext_next, ← ht]
    exact exec_redraw draw _ (h.with_ports s.evIn cs s.timeline)
  · obtain rfl := Host.Outcome.next.inj ht
    obtain ⟨draw', ha'⟩ := arrive_redraw draw s
    exact ⟨draw', by rw [step_of_nothing (s := s.redraw draw) ha hc, ha']⟩

theorem core_step_eq : Host.Core.step core = step := rfl

theorem run_succ_iff (k : Nat) (s t : State) : Host.Core.run core (k + 1) s = .next t ↔
    ∃ u, step s = .next u ∧ Host.Core.run core k u = .next t := by
  cases h : step s <;> simp [Host.Core.run, core_step_eq, h]

/-- Settles O49: by induction on the number of steps, each of which keeps the invariant and does not observe the draw. -/
theorem resetContentsAreNeverObserved : Obligations.ResetContentsAreNeverObserved := by
  intro k
  induction k with
  | zero =>
    intro draw s t _ ht
    obtain rfl : s = t := Host.Outcome.next.inj ht
    exact ⟨draw, rfl⟩
  | succ k ih =>
    intro draw s t h ht
    obtain ⟨u, hu, hk⟩ := (run_succ_iff k s t).mp ht
    obtain ⟨draw₁, hu₁⟩ := step_redraw draw h hu
    obtain ⟨draw₂, hk₂⟩ := ih draw₁ u t (step_inv h hu) hk
    exact ⟨draw₂, (run_succ_iff k _ _).mpr ⟨_, hu₁, hk₂⟩⟩

end Sys2Proof.Machine
end

section
/-! The start counter (R30): what every instruction makes of it, and that the `ADDR` callbacks carry it (R79). -/

namespace Sys2Proof.Machine

/-- The start counter of `t` is `sc`, and what was emitted since `s` shows no other count to an `ADDR` callback. -/
def CountsTo (sc : BitVec 8) (s t : State) : Prop :=
  t.sc = sc ∧ ∃ items, t.trace = s.trace ++ items ∧ ∀ c, c ∈ items.filterMap Output.addrCallbackCount → c = t.sc

/-- Outputs without an `ADDR` callback show no count. -/
theorem countsTo_of_silent {sc : BitVec 8} {s t : State} (items : List Output) (hsc : t.sc = sc)
    (htrace : t.trace = s.trace ++ items) (hsilent : items.filterMap Output.addrCallbackCount = []) : CountsTo sc s t :=
  ⟨hsc, items, htrace, by simp [hsilent]⟩

theorem acceptWrite_countsTo (s : State) : CountsTo s.sc s (acceptWrite s) := by
  rw [acceptWrite_eq]
  exact countsTo_of_silent _ rfl rfl rfl

theorem acceptRead_countsTo (s : State) : CountsTo s.sc s (acceptRead s) := by
  rcases acceptRead_cases s with ⟨-, h⟩ | ⟨-, h⟩ <;> rw [h] <;> exact countsTo_of_silent _ rfl rfl rfl

theorem finishStop_countsTo (s : State) : CountsTo 0xFF#8 s (finishStop s) :=
  countsTo_of_silent [.irqDone] rfl rfl rfl

theorem errorEvent_countsTo (s : State) : CountsTo 0xFF#8 s (errorEvent s) := by
  rw [errorEvent_eq]
  exact countsTo_of_silent _ rfl rfl rfl

/-- The one place where an `ADDR` callback is requested (R108). -/
theorem dispatchAddress_countsTo (a : BitVec 10) (s : State) : CountsTo s.sc s (dispatchAddress a s) := by
  rcases dispatchAddress_cases a s with ⟨-, h⟩ | ⟨-, -, h⟩ | ⟨-, -, h⟩ <;> rw [h]
  · exact ⟨rfl, _, rfl, by simp [Output.addrCallbackCount]⟩
  · exact acceptWrite_countsTo s
  · exact acceptRead_countsTo s

theorem addressEvent_countsTo (dir : Bool) (d : Byte) (s : State) :
    CountsTo (if s.extp = true then s.sc else s.sc + 1) s (addressEvent dir d s) := by
  rcases addressEvent_cases dir d s with ⟨he, -, h⟩ | ⟨he, -, h⟩ | ⟨he, h⟩ <;> rw [h]
  · rw [if_neg (by simp [he])]
    exact countsTo_of_silent _ rfl rfl rfl
  · rw [if_neg (by simp [he])]
    exact dispatchAddress_countsTo _ { s with evdir := dir, addr := rawAddress d, sc := nextStartCount s.sc }
  · rw [if_pos he]
    exact dispatchAddress_countsTo _ { s with evdir := dir, addr := assembledAddress s.addr d, extp := false }

theorem stopEvent_countsTo (s : State) :
    CountsTo (if s.xst = .tx ∧ s.cben[3] = true ∨ s.xst = .rx ∧ s.cben[1] = true then s.sc else 0xFF#8) s (stopEvent s) := by
  rcases stopEvent_cases s with ⟨hx, hc, h⟩ | ⟨hx, hc, h⟩ | ⟨hx, hc, h⟩ | ⟨hx, hc, h⟩ | ⟨hx, h⟩ <;> rw [h]
  · rw [if_pos (.inl ⟨hx, hc⟩)]
    exact countsTo_of_silent _ rfl rfl rfl
  · rw [if_pos (.inr ⟨hx, hc⟩)]
    exact countsTo_of_silent _ rfl rfl rfl
  · rw [if_neg (by simp [hx, hc])]
    exact finishStop_countsTo { s with rxIdx := 0 }
  · rw [if_neg (by simp [hx, hc])]
    exact finishStop_countsTo s
  · rw [if_neg (by simp [hx])]
    exact finishStop_countsTo s

theorem exec_evTx_countsTo {s t : State} (h : exec .evTx s = .next t) : CountsTo s.sc s t := by
  rcases evTx_cases s t h with ⟨-, -, b, -, rfl⟩ | ⟨-, rfl⟩ <;> exact countsTo_of_silent _ rfl rfl rfl

theorem exec_evRx_countsTo {d : Byte} {s t : State} (h : exec (.evRx d) s = .next t) : CountsTo s.sc s t := by
  rw [exec_evRx] at h
  obtain rfl := Host.Outcome.next.inj h
  split <;> exact countsTo_of_silent _ rfl rfl rfl

theorem exec_cbret_countsTo {acc : Bool} {s t : State} (h : exec (.cbret acc) s = .next t) :
    CountsTo (if s.burst = none ∧ (s.cst = .wRx ∨ s.cst = .wStop) then 0xFF#8 else s.sc) s t := by
  rcases Option.eq_none_or_eq_some s.burst with hb | ⟨b, hb⟩
  · obtain ⟨u, hu, hcases⟩ := execCbret_cases acc s hb
    obtain rfl : u = t := Host.Outcome.next.inj (hu.symm.trans h)
    rcases hcases with ⟨hc, rfl⟩ | ⟨hc, -, rfl⟩ | ⟨hc, -, -, rfl⟩ | ⟨hc, -, -, -, rfl⟩ | ⟨hc, -, -, -, rfl⟩ | ⟨hc, rfl⟩ | ⟨hc, rfl⟩
    case inr.inr.inr.inr.inr.inr =>
      rw [if_pos ⟨hb, hc⟩]
      exact countsTo_of_silent _ rfl rfl rfl
    all_goals
      rw [if_neg (by simp [hc])]
      exact countsTo_of_silent _ rfl rfl rfl
  · simp only [exec, execCbret, command_open _ s hb, Host.Outcome.next.injEq] at h
    subst h
    rw [if_neg (by simp [hb])]
    exact countsTo_of_silent _ rfl rfl rfl

theorem exec_command_countsTo {i : Instr} {s t : State} (hi : i.isEvent = false) (hc : ∀ acc, i ≠ .cbret acc)
    (h : exec i s = .next t) : CountsTo s.sc s t := by
  rcases command_cases i s t hi hc h with ⟨r, rfl⟩ | ⟨b, -, -, rfl⟩ | ⟨n, -, -, rfl⟩ | ⟨n, bytes, b, -, -, rfl⟩ |
    ⟨n, bytes, -, rfl⟩ | ⟨b, -, -, -, -, rfl⟩ | ⟨m, -, rfl⟩ | ⟨e, -, rfl⟩
  -- opening a burst and keeping a beat of it emit nothing (R154)
  case inr.inr.inl | inr.inr.inr.inl => exact countsTo_of_silent [] rfl (List.append_nil _).symm rfl
  all_goals exact countsTo_of_silent _ rfl rfl rfl

/-- Settles O56: the parts of an invocation give the counter's value, and no other command touches it. -/
theorem startCounterLaw : Obligations.StartCounterLaw := by
  intro i s t h
  cases i
  case evBerr | evColl =>
    obtain rfl := Host.Outcome.next.inj h
    exact errorEvent_countsTo s
  case evAddr dir d | evAddrCont dir d =>
    obtain rfl := Host.Outcome.next.inj h
    exact addressEvent_countsTo dir d s
  case evStop =>
    obtain rfl := Host.Outcome.next.inj h
    exact stopEvent_countsTo s
  case evTx => exact exec_evTx_countsTo h
  case evRx d => exact exec_evRx_countsTo h
  case evNone =>
    obtain rfl := Host.Outcome.next.inj h
    exact countsTo_of_silent [.irqDone] rfl rfl rfl
  case cbret acc => exact exec_cbret_countsTo h
  all_goals exact exec_command_countsTo rfl (fun _ => Instr.noConfusion) h

end Sys2Proof.Machine
end

section
/-! The buffer (20_memory.md): its canonical form determines it (R50), and bytes written at rising indices are read back in order
(R53), through staging and sending and through receiving and draining. -/

namespace Sys2Proof.Machine

/-! ### The canonical form -/

theorem Memory.wf_of_wfAbove {k : Nat} {m : Memory} (h : Memory.wfAbove k m = true) : Memory.wf m = true := by
  cases m with
  | nil => rfl
  | cons cell m => exact (Bool.and_eq_true_iff.mp h).2

theorem Memory.read_of_wfAbove {k a : Nat} {m : Memory} (h : Memory.wfAbove k m = true) (ha : a ≤ k) :
    m.read a = none := by
  induction m generalizing k with
  | nil => rfl
  | cons cell m ih =>
    obtain ⟨j, c⟩ := cell
    simp only [Memory.wfAbove, Bool.and_eq_true, decide_eq_true_eq] at h
    obtain ⟨hkj, htail⟩ := h
    rw [Memory.read, if_neg (by omega)]
    exact ih htail (by omega)

theorem Memory.read_head (k : Nat) (b : Byte) (m : Memory) : Memory.read ((k, b) :: m) k = some b := if_pos rfl

/-- Nothing is written below the first index of the canonical form. -/
theorem Memory.read_below_head {k a : Nat} {b : Byte} {m : Memory} (h : Memory.wf ((k, b) :: m) = true) (ha : a < k) :
    Memory.read ((k, b) :: m) a = none := by
  rw [Memory.read, if_neg (by omega)]
  exact Memory.read_of_wfAbove h (by omega)

/-- A first index at which the other list reads the same is not below that list's first index. -/
theorem Memory.head_le_of_read_eq {k k' : Nat} {b b' : Byte} {m m' : Memory} (h' : Memory.wf ((k', b') :: m') = true)
    (hread : Memory.read ((k, b) :: m) k = Memory.read ((k', b') :: m') k) : k' ≤ k := by
  by_contra hlt
  rw [Memory.read_head, Memory.read_below_head h' (by omega)] at hread
  cases hread

/-- Behind an equal first cell the rest reads alike. -/
theorem Memory.read_tail_eq {k : Nat} {b : Byte} {m m' : Memory} (h : Memory.wf ((k, b) :: m) = true)
    (h' : Memory.wf ((k, b) :: m') = true) (hread : ∀ a, Memory.read ((k, b) :: m) a = Memory.read ((k, b) :: m') a)
    (a : Nat) : m.read a = m'.read a := by
  by_cases ha : a = k
  · rw [Memory.read_of_wfAbove h ha.le, Memory.read_of_wfAbove h' ha.le]
  · simpa only [Memory.read, if_neg ha] using hread a

/-- Settles O60: by induction, for the first cells are equal and the rest reads alike. -/
theorem equalBuffersAreEqualData : Obligations.EqualBuffersAreEqualData := by
  intro m
  induction m with
  | nil =>
    intro m' _ _ hread
    cases m' with
    | nil => rfl
    | cons cell' m' =>
      have hhead := hread cell'.1
      rw [Memory.read_head] at hhead
      cases hhead
  | cons cell m ih =>
    obtain ⟨k, b⟩ := cell
    intro m' h h' hread
    cases m' with
    | nil =>
      have hhead := hread k
      rw [Memory.read_head] at hhead
      cases hhead
    | cons cell' m' =>
      obtain ⟨k', b'⟩ := cell'
      obtain rfl : k = k' :=
        le_antisymm (Memory.head_le_of_read_eq h (hread k').symm) (Memory.head_le_of_read_eq h' (hread k))
      have hhead := hread k
      rw [Memory.read_head, Memory.read_head] at hhead
      obtain rfl : b = b' := Option.some.inj hhead
      rw [ih m' (Memory.wf_of_wfAbove h) (Memory.wf_of_wfAbove h') (Memory.read_tail_eq h h' hread)]

/-! ### Bytes in place -/

/-- The bytes stand at consecutive indices from `a` on. -/
def Memory.HoldsFrom (m : Memory) : Nat → List Byte → Prop
  | _, [] => True
  | a, b :: bs => m.read a = some b ∧ m.HoldsFrom (a + 1) bs

/-- A run of writes puts its bytes in place (R53). -/
theorem Memory.holdsFrom_writeAll (bs : List Byte) (m : Memory) (a : Nat) : (m.writeAll a bs).HoldsFrom a bs := by
  induction bs generalizing m a with
  | nil => trivial
  | cons b bs ih =>
    refine ⟨?_, ih (m.write a b) (a + 1)⟩
    rw [Memory.writeAll, Memory.read_writeAll, if_neg (by omega), Memory.read_write_same]

/-! ### An index moved over several bytes -/

theorem index_ofNat_toNat {n : Nat} (h : n ≤ 255) : (BitVec.ofNat 8 n).toNat = n := by
  rw [BitVec.toNat_ofNat]
  omega

theorem index_zero_add (n : Nat) : (0 : Index) + BitVec.ofNat 8 n = BitVec.ofNat 8 n := BitVec.zero_add _

/-- One byte, then `n`. -/
theorem index_succ_add (x : Index) (n : Nat) : x + 1 + BitVec.ofNat 8 n = x + BitVec.ofNat 8 (n + 1) := by
  rw [Nat.add_comm n, BitVec.ofNat_add, ← BitVec.add_assoc]
  rfl

/-! ### Runs of one instruction -/

/-- Bytes that fit are staged in order (R152). -/
theorem execList_enq (bs : List Byte) (s : State) (hb : s.burst = none) (hroom : s.txLen.toNat + bs.length ≤ s.C) :
    execList (bs.map Instr.enq) s = .next { s with
      buf := s.buf.writeAll s.txLen.toNat bs, txLen := s.txLen + BitVec.ofNat 8 bs.length
      trace := s.trace ++ List.replicate bs.length (.response (.ok true)) } := by
  induction bs generalizing s with
  | nil => simp [Memory.writeAll]
  | cons b bs ih =>
    rw [List.length_cons] at hroom
    have hlt : s.txLen.toNat < s.C := by omega
    have hsucc := index_succ_toNat s.txLen hlt s.C_le
    have hstep := exec_enq b s hb
    rw [if_pos hlt] at hstep
    rw [List.map_cons, execList_cons hstep, ih]
    · simp only [hsucc, index_succ_add, Memory.writeAll, List.length_cons, List.replicate_succ, List.append_assoc,
        List.singleton_append]
    · exact hb
    · change (s.txLen + 1).toNat + bs.length ≤ s.C
      omega

/-- Received bytes that fit are stored in order and acknowledged (R119). -/
theorem execList_evRx (ds : List Byte) (s : State) (hroom : s.rxLen.toNat + ds.length ≤ s.C) :
    execList (ds.map Instr.evRx) s = .next { s with
      buf := s.buf.writeAll s.rxLen.toNat ds, rxLen := s.rxLen + BitVec.ofNat 8 ds.length
      trace := s.trace ++ (List.replicate ds.length [Output.directive .ackContinue, .irqDone]).flatten } := by
  induction ds generalizing s with
  | nil => simp [Memory.writeAll]
  | cons d ds ih =>
    rw [List.length_cons] at hroom
    have hlt : s.rxLen.toNat < s.C := by omega
    have hsucc := index_succ_toNat s.rxLen hlt s.C_le
    have hstep := exec_evRx d s
    rw [if_pos hlt] at hstep
    rw [List.map_cons, execList_cons hstep, ih]
    · simp only [hsucc, index_succ_add, Memory.writeAll, List.length_cons, List.replicate_succ, List.flatten_cons,
        List.append_assoc]
    · change (s.rxLen + 1).toNat + ds.length ≤ s.C
      omega

/-- Staged bytes are sent in order (R117). -/
theorem execList_evTx (bs : List Byte) (s : State) (hlen : s.txIdx.toNat + bs.length ≤ s.txLen.toNat)
    (hC : s.txLen.toNat ≤ s.C) (hbuf : s.buf.HoldsFrom s.txIdx.toNat bs) :
    execList (List.replicate bs.length .evTx) s = .next { s with
      txIdx := s.txIdx + BitVec.ofNat 8 bs.length
      trace := s.trace ++ bs.flatMap (fun b => [.txByte b, .directive .ackContinue, .irqDone]) } := by
  induction bs generalizing s with
  | nil => simp
  | cons b bs ih =>
    rw [List.length_cons] at hlen
    obtain ⟨hread, hrest⟩ := hbuf
    have hlt : s.txIdx.toNat < s.txLen.toNat := by omega
    have hsucc := index_succ_toNat s.txIdx (hlt.trans_le hC) s.C_le
    have hstep := exec_evTx s
    simp only [if_pos hlt, bufRead_written s (hlt.trans_le hC) hread] at hstep
    rw [List.length_cons, List.replicate_succ, execList_cons hstep, ih]
    · simp only [index_succ_add, List.flatMap_cons, List.append_assoc]
    · change (s.txIdx + 1).toNat + bs.length ≤ s.txLen.toNat
      omega
    · exact hC
    · exact hsucc ▸ hrest

/-- Received bytes are drained in order (R156). -/
theorem execList_deq (ds : List Byte) (s : State) (hb : s.burst = none)
    (hlen : s.rxIdx.toNat + ds.length ≤ s.rxLen.toNat) (hC : s.rxLen.toNat ≤ s.C)
    (hbuf : s.buf.HoldsFrom s.rxIdx.toNat ds) :
    execList (List.replicate ds.length .deq) s = .next { s with
      rxIdx := s.rxIdx + BitVec.ofNat 8 ds.length
      trace := s.trace ++ ds.map (fun b => .response (.byte true b)) } := by
  induction ds generalizing s with
  | nil => simp
  | cons d ds ih =>
    rw [List.length_cons] at hlen
    obtain ⟨hread, hrest⟩ := hbuf
    have hlt : s.rxIdx.toNat < s.rxLen.toNat := by omega
    have hsucc := index_succ_toNat s.rxIdx (hlt.trans_le hC) s.C_le
    have hstep := exec_deq s hb
    simp only [if_pos hlt, bufRead_written s (hlt.trans_le hC) hread] at hstep
    rw [List.length_cons, List.replicate_succ, execList_cons hstep, ih]
    · simp only [index_succ_add, List.map_cons, List.append_assoc, List.singleton_append]
    · exact hb
    · change (s.rxIdx + 1).toNat + ds.length ≤ s.rxLen.toNat
      omega
    · exact hC
    · exact hsucc ▸ hrest

/-! ### Staging and sending -/

/-- Bytes staged in the empty region stand from index 0 on. -/
theorem execList_enq_empty (bs : List Byte) (s : State) (hb : s.burst = none) (hlen : s.txLen = 0)
    (hroom : bs.length ≤ s.C) : execList (bs.map Instr.enq) s = .next { s with
      buf := s.buf.writeAll 0 bs, txLen := BitVec.ofNat 8 bs.length
      trace := s.trace ++ List.replicate bs.length (.response (.ok true)) } := by
  have hzero : s.txLen.toNat = 0 := congrArg BitVec.toNat hlen
  rw [execList_enq bs s hb (by omega), hzero, hlen, index_zero_add]

/-- The return from `REQ` sets the transmit cursor to 0 (R168). -/
theorem exec_cbret_wReq (acc : Bool) (s : State) (hc : s.cst = .wReq) (hb : s.burst = none) :
    exec (.cbret acc) s = .next { s with
      txIdx := 0, cst := .ready, trace := s.trace ++ [.response .ack, .directive .ackContinue, .irqDone] } := by
  obtain ⟨t, ht, hcases⟩ := execCbret_cases acc s hb
  simp only [hc, reduceCtorEq, false_and, true_and, false_or, or_false] at hcases
  rwa [hcases] at ht

/-- With nothing left to send TXDATA is an overrun (R118). -/
theorem exec_evTx_overrun (s : State) (h : s.txLen.toNat ≤ s.txIdx.toNat) :
    exec .evTx s = .next { s with trace := s.trace ++ [.directive .nackWaitStart, .irqDone] } := by
  rw [exec_evTx, if_neg (Nat.not_lt.mpr h)]

/-- Every staged byte is sent, and the next TXDATA is an overrun (R117, R118). -/
theorem execList_evTx_all (bs : List Byte) (s : State) (hidx : s.txIdx = 0) (hlen : s.txLen = BitVec.ofNat 8 bs.length)
    (hC : bs.length ≤ s.C) (hbuf : s.buf.HoldsFrom 0 bs) :
    execList (List.replicate bs.length .evTx ++ [.evTx]) s = .next { s with
      txIdx := BitVec.ofNat 8 bs.length
      trace := s.trace ++ bs.flatMap (fun b => [.txByte b, .directive .ackContinue, .irqDone]) ++
        [.directive .nackWaitStart, .irqDone] } := by
  have hzero : s.txIdx.toNat = 0 := congrArg BitVec.toNat hidx
  have hcount : s.txLen.toNat = bs.length := hlen ▸ index_ofNat_toNat (hC.trans s.C_le)
  have hsend := execList_evTx bs s (by omega) (by omega) (by rwa [hzero])
  rw [hidx, index_zero_add, ← hlen] at hsend
  rw [execList_append hsend, execList_cons (exec_evTx_overrun _ le_rfl), execList_nil, ← hlen, List.append_assoc]

/-- Settles O58: the bytes are staged from index 0 on, the return sets the cursor to 0, and all of them are sent. -/
theorem transmitSendsTheEnqueuedBytesInOrder : Obligations.TransmitSendsTheEnqueuedBytesInOrder := by
  intro bs acc s hc hb hlen hroom
  rw [List.append_assoc, List.append_assoc, execList_append (execList_enq_empty bs s hb hlen hroom),
    List.singleton_append, execList_cons (exec_cbret_wReq acc _ ?_ ?_), execList_evTx_all]
  · exact ⟨_, rfl, by simp⟩
  · rfl
  · rfl
  · exact hroom
  · exact Memory.holdsFrom_writeAll bs s.buf 0
  · exact hc
  · exact hb

/-! ### Receiving and draining -/

/-- Bytes received into the empty region stand from index 0 on. -/
theorem execList_evRx_empty (ds : List Byte) (s : State) (hlen : s.rxLen = 0) (hroom : ds.length ≤ s.C) :
    execList (ds.map Instr.evRx) s = .next { s with
      buf := s.buf.writeAll 0 ds, rxLen := BitVec.ofNat 8 ds.length
      trace := s.trace ++ (List.replicate ds.length [Output.directive .ackContinue, .irqDone]).flatten } := by
  have hzero : s.rxLen.toNat = 0 := congrArg BitVec.toNat hlen
  rw [execList_evRx ds s (by omega), hzero, hlen, index_zero_add]

/-- The STOP of a write announces the count to the `RX` callback, with the read cursor at 0 (R114). -/
theorem exec_evStop_rx (s : State) (hx : s.xst = .rx) (hcb : s.cben[1] = true) :
    exec .evStop s = .next { s with
      rxIdx := 0, cst := .wRx, trace := s.trace ++ [.callback .rx 0 0 s.rxLen] } := by
  refine congrArg Host.Outcome.next ?_
  simpa [hx, hcb] using stopEvent_cases s

/-- The return from `RX` finishes the STOP (R169). -/
theorem exec_cbret_wRx (acc : Bool) (s : State) (hc : s.cst = .wRx) (hb : s.burst = none) :
    exec (.cbret acc) s = .next { s with
      sc := noStartYet, extp := false, xst := .idle, cst := .ready, trace := s.trace ++ [.response .ack, .irqDone] } := by
  obtain ⟨t, ht, hcases⟩ := execCbret_cases acc s hb
  simp only [hc, reduceCtorEq, false_and, true_and, false_or, or_false] at hcases
  rwa [hcases] at ht

/-- With nothing left to drain `DEQ` reports empty (R156). -/
theorem exec_deq_empty (s : State) (hb : s.burst = none) (h : s.rxLen.toNat ≤ s.rxIdx.toNat) :
    exec .deq s = .next { s with trace := s.trace ++ [.response (.byte false 0)] } := by
  rw [exec_deq s hb, if_neg (Nat.not_lt.mpr h)]

/-- Every received byte is drained, and the next `DEQ` reports empty (R156). -/
theorem execList_deq_all (ds : List Byte) (s : State) (hb : s.burst = none) (hidx : s.rxIdx = 0)
    (hlen : s.rxLen = BitVec.ofNat 8 ds.length) (hC : ds.length ≤ s.C) (hbuf : s.buf.HoldsFrom 0 ds) :
    execList (List.replicate ds.length .deq ++ [.deq]) s = .next { s with
      rxIdx := BitVec.ofNat 8 ds.length
      trace := s.trace ++ ds.map (fun b => .response (.byte true b)) ++ [.response (.byte false 0)] } := by
  have hzero : s.rxIdx.toNat = 0 := congrArg BitVec.toNat hidx
  have hcount : s.rxLen.toNat = ds.length := hlen ▸ index_ofNat_toNat (hC.trans s.C_le)
  have hdrain := execList_deq ds s hb (by omega) (by omega) (by rwa [hzero])
  rw [hidx, index_zero_add, ← hlen] at hdrain
  rw [execList_append hdrain, execList_cons (exec_deq_empty _ ?_ le_rfl), execList_nil, ← hlen, List.append_assoc]
  exact hb

/-- Settles O59: the bytes are stored from index 0 on, the STOP sets the cursor to 0, all of them are drained, and the return
finishes the STOP. -/
theorem receiveDeliversTheBytesInOrder : Obligations.ReceiveDeliversTheBytesInOrder := by
  intro ds acc s hx _ hb hlen hcb hroom
  have hsplit : ds.map Instr.evRx ++ [.evStop] ++ List.replicate ds.length .deq ++ [.deq, .cbret acc] =
      ds.map Instr.evRx ++ (.evStop :: ((List.replicate ds.length .deq ++ [.deq]) ++ [.cbret acc])) := by simp
  rw [hsplit, execList_append (execList_evRx_empty ds s hlen hroom), execList_cons (exec_evStop_rx _ ?_ ?_),
    execList_append (execList_deq_all ds _ ?_ ?_ ?_ ?_ ?_), execList_cons (exec_cbret_wRx acc _ ?_ ?_)]
  · exact ⟨_, rfl, by simp, rfl, rfl⟩
  · rfl
  · exact hb
  · exact hb
  · rfl
  · rfl
  · exact hroom
  · exact Memory.holdsFrom_writeAll ds s.buf 0
  · exact hx
  · exact hcb

end Sys2Proof.Machine
end

section
/-! The decoder and the encoder (30_encoding.md): the fields of an assembled word, the event decoder as one chain of conditions (R74),
that decoding undoes encoding, and which fields a word's meaning rests on (R71, R72, R82). -/

namespace Sys2Proof

/-! ### The fields of a word assembled from its fields (R70, R80) -/

section
variable (flags : BitVec 6) (op a : BitVec 4) (d : Byte)

theorem eventWord_high_bit {i : Nat} (hi : i < 6) : (eventWord flags d)[i + 8] = flags[i] :=
  (BitVec.getElem_append (x := flags) (y := d) (Nat.add_lt_add_right hi 8)).trans (by simp)

@[simp] theorem eventWord_berr : (eventWord flags d).berr = flags[5] := eventWord_high_bit flags d _
@[simp] theorem eventWord_coll : (eventWord flags d).coll = flags[4] := eventWord_high_bit flags d _
@[simp] theorem eventWord_am : (eventWord flags d).am = flags[3] := eventWord_high_bit flags d _
@[simp] theorem eventWord_stop : (eventWord flags d).stop = flags[2] := eventWord_high_bit flags d _
@[simp] theorem eventWord_dif : (eventWord flags d).dif = flags[1] := eventWord_high_bit flags d _
@[simp] theorem eventWord_dir : (eventWord flags d).dir = flags[0] := eventWord_high_bit flags d _
@[simp] theorem eventWord_data : (eventWord flags d).data = d := BitVec.extractLsb'_append_eq_right

@[simp] theorem commandWord_op : (commandWord op a d).op = op := by
  have hop : (commandWord op a d).op = (op ++ a).extractLsb' 4 4 :=
    BitVec.extractLsb'_append_eq_of_le (xhi := op ++ a) (xlo := d) (start := 12) (len := 4) (by decide)
  rw [hop, BitVec.extractLsb'_append_eq_left]

@[simp] theorem commandWord_a : (commandWord op a d).a = a := by
  have ha : (commandWord op a d).a = (op ++ a).extractLsb' 0 4 :=
    BitVec.extractLsb'_append_eq_of_le (xhi := op ++ a) (xlo := d) (start := 8) (len := 4) (by decide)
  rw [ha, BitVec.extractLsb'_append_eq_right]

@[simp] theorem commandWord_d : (commandWord op a d).d = d :=
  BitVec.extractLsb'_append_eq_right (a := op ++ a)

end

/-! ### The event decoder -/

/-- The class and the rows of the class as one chain of conditions (R74). -/
theorem decodeEvent_eq (extp : Bool) (w : EventWord) : decodeEvent extp w =
    if w.berr then .evBerr
    else if w.coll then .evColl
    else if w.am then .evAddr w.dir w.data
    else if w.dif && extp then .evAddrCont w.dir w.data
    else if w.stop then .evStop
    else if w.dif && w.dir then .evTx
    else if w.dif then .evRx w.data
    else .evNone := by
  unfold decodeEvent classify
  split_ifs <;> simp_all

/-- Settles O2: each clause takes one branch of the decoder's chain. -/
theorem eventWordsDecodeByPriority : Obligations.EventWordsDecodeByPriority := by
  intro extp w
  rw [decodeEvent_eq]
  refine ⟨fun (hberr : w.berr = true) => ?_, fun (hberr : w.berr = false) (hcoll : w.coll = true) => ?_,
    fun (hberr : w.berr = false) (hcoll : w.coll = false) =>
      ⟨fun (ham : w.am = true) => ?_, fun (ham : w.am = false) =>
        ⟨fun (hdif : w.dif = true) (hextp : extp = true) => ?_, fun (hcont : w.dif = false ∨ extp = false) =>
          ⟨fun (hstop : w.stop = true) => ?_, fun (hstop : w.stop = false) =>
            ⟨fun (hdif : w.dif = true) (hdir : w.dir = true) => ?_,
              fun (hdif : w.dif = true) (hdir : w.dir = false) => ?_, fun (hdif : w.dif = false) => ?_⟩⟩⟩⟩⟩
  · simp [hberr]
  · simp [hberr, hcoll]
  · simp [hberr, hcoll, ham, EventWord.dir, EventWord.data, BitVec.extractLsb]
  · simp [hberr, hcoll, ham, hdif, hextp, EventWord.dir, EventWord.data, BitVec.extractLsb]
  · rcases hcont with hdif | hextp
    · simp [hberr, hcoll, ham, hdif, hstop]
    · simp [hberr, hcoll, ham, hextp, hstop]
  · have hextp : extp = false := by simpa [hdif] using hcont
    simp [hberr, hcoll, ham, hextp, hstop, hdif, hdir]
  · have hextp : extp = false := by simpa [hdif] using hcont
    simp [hberr, hcoll, ham, hextp, hstop, hdif, hdir, EventWord.data, BitVec.extractLsb]
  · simp [hberr, hcoll, ham, hstop, hdif]

theorem decodePort_wellFormed {extp : Bool} {p : PortWord} {i : Instr} (h : decodePort extp p = some i) :
    WellFormed extp i = true := by
  cases p with
  | event w =>
    obtain rfl := Option.some.inj h
    rw [decodeEvent_eq]
    split_ifs <;> simp_all [WellFormed]
  | command c =>
    obtain rfl := Option.some.inj h
    unfold decodeCommand
    split <;> rfl
  | reset => contradiction

/-- Settles O5: the decoder reads back the fields that `encode` writes, and the data-phase words have one reading for each value of
`extp`. -/
theorem decodeOfEncodeIsTheInstruction : Obligations.DecodeOfEncodeIsTheInstruction := by
  intro extp i h
  cases i
  case evAddr dir d => cases dir <;> simp [decodePort, encode, decodeEvent_eq]
  case evAddrCont dir d =>
    obtain rfl : extp = true := h
    cases dir <;> simp [decodePort, encode, decodeEvent_eq]
  case evTx | evRx =>
    obtain rfl : extp = false := by simpa [WellFormed] using h
    simp [decodePort, encode, decodeEvent_eq]
  case evBerr | evColl | evStop | evNone => simp [decodePort, encode, decodeEvent_eq]
  case setie e | cbret e => cases e <;> simp [decodePort, encode, decodeCommand]
  all_goals simp [decodePort, encode, decodeCommand]

/-- Settles O6: each port decodes to its own kind of instruction, and what it decodes to survives the round trip by O5. -/
theorem decodedInstructionsAreWellFormed : Obligations.DecodedInstructionsAreWellFormed := by
  intro extp p i h
  have hwf := decodePort_wellFormed h
  have hport : (i.isEvent = true ↔ ∃ w, p = .event w) ∧ (i.isEvent = false ↔ ∃ c, p = .command c) := by
    cases p with
    | event w =>
      obtain rfl := Option.some.inj h
      simp [Machine.decodeEvent_isEvent]
    | command c =>
      obtain rfl := Option.some.inj h
      simp [Machine.decodeCommand_isEvent]
    | reset => contradiction
  exact ⟨hwf, hport.1, hport.2, decodeOfEncodeIsTheInstruction extp i hwf⟩

/-! ### The fields a word's meaning rests on -/

/-- Settles O3: the opcode chooses the same arm of the decoder for both words, and where the arm has an operand, the
field is equal. -/
theorem unusedCommandFieldsAreIgnored : Obligations.UnusedCommandFieldsAreIgnored := by
  intro u v (hop : u.op = v.op) (ha : u.op = 0x6#4 → u.a = v.a)
    (hd : u.op = 0x1#4 ∨ u.op = 0x2#4 ∨ u.op = 0xF#4 → u.d = v.d) hbit
  have hd0 (h : u.op = 0x7#4 ∨ u.op = 0x8#4) : u.d[0] = v.d[0] := by simpa [CommandWord.d] using hbit h
  rw [hop] at ha hd hd0
  have opcode {op : BitVec 4} (h : v.op.toNat = op.toNat) : v.op = op := BitVec.eq_of_toNat_eq h
  unfold decodeCommand
  rw [hop]
  split
  case h_2 henq => rw [hd (.inl (opcode henq))]
  case h_3 henqn => rw [hd (.inr (.inl (opcode henqn)))]
  case h_7 hsetcb => rw [ha (opcode hsetcb)]
  case h_8 hsetie => rw [hd0 (.inl (opcode hsetie))]
  case h_9 hcbret => rw [hd0 (.inr (opcode hcbret))]
  case h_16 =>
    have hlt : v.op.toNat < 16 := v.op.isLt
    have hbeat : v.op.toNat = 15 := by grind
    rw [hd (.inr (.inr (opcode hbeat)))]
  all_goals rfl

section
variable {w w' : EventWord} {extp : Bool}

theorem eventWord_bit_eq_of_extractLsb_eq {lo i : Nat} (h : w.extractLsb 13 lo = w'.extractLsb 13 lo) (hlo : lo ≤ i)
    (hi : i < 14) : w[i] = w'[i] := by
  have hbit := congrArg (BitVec.getLsbD · (i - lo)) h
  have hin : i - lo < 13 - lo + 1 := by omega
  simpa [BitVec.extractLsb, BitVec.getLsbD_extractLsb', Nat.add_sub_cancel' hlo, hin, hi] using hbit

/-- The class rests on the five flags, and on DIR only where it is TXDATA or RXDATA (R74). -/
theorem classify_congr (hberr : w.berr = w'.berr) (hcoll : w.coll = w'.coll) (ham : w.am = w'.am)
    (hstop : w.stop = w'.stop) (hdif : w.dif = w'.dif)
    (hdir : classify w extp = .txData ∨ classify w extp = .rxData → w.dir = w'.dir) :
    classify w extp = classify w' extp := by
  simp only [classify, hberr, hcoll, ham, hstop, hdif] at hdir ⊢
  split_ifs at hdir ⊢ <;> simp_all

/-- Outside ADDRESS and RXDATA an instruction has no operand: the class and BERR determine it (R71, R72). -/
theorem decodeEvent_congr (hclass : classify w extp = classify w' extp) (hberr : w.berr = w'.berr)
    (haddress : classify w extp ≠ .address) (hrxData : classify w extp ≠ .rxData) :
    decodeEvent extp w = decodeEvent extp w' := by
  unfold decodeEvent
  rw [← hclass]
  cases hc : classify w extp
  case error => simp only [hberr]
  case address => contradiction
  case rxData => contradiction
  case stop | txData | none => rfl

theorem decodeEvent_eq_of_high_bits {lo : Nat} (hlo : lo ≤ 9) (h : w.extractLsb 13 lo = w'.extractLsb 13 lo)
    (haddress : classify w extp ≠ .address) (hrxData : classify w extp ≠ .rxData)
    (htxData : classify w extp = .txData → lo ≤ 8) : decodeEvent extp w = decodeEvent extp w' := by
  have hbit {i : Nat} (hi : lo ≤ i) (hi' : i < 14) : w[i] = w'[i] := eventWord_bit_eq_of_extractLsb_eq h hi hi'
  have hberr : w.berr = w'.berr := hbit (by omega) _
  have hcoll : w.coll = w'.coll := hbit (by omega) _
  have ham : w.am = w'.am := hbit (by omega) _
  have hstop : w.stop = w'.stop := hbit (by omega) _
  have hdif : w.dif = w'.dif := hbit hlo _
  have hdir (hclass : classify w extp = .txData ∨ classify w extp = .rxData) : w.dir = w'.dir :=
    hbit (htxData (hclass.resolve_right hrxData)) _
  exact decodeEvent_congr (classify_congr hberr hcoll ham hstop hdif hdir) hberr haddress hrxData

end

/-- Settles O4: with DIR among the equal bits, and without it where the class does not read DIR. -/
theorem unusedEventFieldsAreIgnored : Obligations.UnusedEventFieldsAreIgnored := by
  intro extp w w'
  constructor
  · intro h haddress hrxData
    exact decodeEvent_eq_of_high_bits (by decide) h haddress hrxData (fun _ => le_rfl)
  · intro h hclass
    refine decodeEvent_eq_of_high_bits le_rfl h ?_ ?_ ?_
    all_goals rcases hclass with hclass | hclass | hclass <;> simp [hclass]

/-- Settles O1: fourteen closed words, decoded. -/
theorem decodesTheWordsOfTheSpec : Obligations.DecodesTheWordsOfTheSpec := by
  unfold Obligations.DecodesTheWordsOfTheSpec
  decide

end Sys2Proof
end

section
/-! What a step emits (30_encoding.md): the two directives that are issued (R77), and one response for each command (R86). -/

namespace Sys2Proof.Machine

/-! ### Directives -/

/-- The output is no directive, or is one of the two that the core issues (R77). -/
def Output.isIssued : Output → Bool
  | .directive .nackContinue | .directive .ackWaitStart => false
  | .directive .ackContinue | .directive .nackWaitStart => true
  | .txByte _ | .errClr | .irqDone | .callback _ _ _ _ | .response _ => true

/-- The trace of `t` continues that of `s` by outputs that the core issues. -/
def IssuesFrom (s t : State) : Prop := ∃ items, t.trace = s.trace ++ items ∧ items.all Output.isIssued = true

theorem isIssued_directive {d : Directive} :
    Output.isIssued (.directive d) = true ↔ d = .ackContinue ∨ d = .nackWaitStart := by
  cases d <;> simp [Output.isIssued]

theorem dispatchAddress_issues (a : BitVec 10) (s : State) : IssuesFrom s (dispatchAddress a s) := by
  rw [dispatchAddress_eq, acceptRead_eq, acceptWrite_eq]
  split_ifs <;> exact ⟨_, rfl, rfl⟩

theorem addressEvent_issues (dir : Bool) (d : Byte) (s : State) : IssuesFrom s (addressEvent dir d s) := by
  rcases addressEvent_cases dir d s with ⟨-, -, h⟩ | ⟨-, -, h⟩ | ⟨-, h⟩ <;> rw [h]
  · exact ⟨_, rfl, rfl⟩
  · exact dispatchAddress_issues _ _
  · exact dispatchAddress_issues _ _

theorem stopEvent_issues (s : State) : IssuesFrom s (stopEvent s) := by
  rcases stopEvent_cases s with ⟨-, -, h⟩ | ⟨-, -, h⟩ | ⟨-, -, h⟩ | ⟨-, -, h⟩ | ⟨-, h⟩ <;> rw [h] <;>
    exact ⟨_, rfl, rfl⟩

theorem exec_event_issues {i : Instr} {s t : State} (hi : i.isEvent = true) (h : exec i s = .next t) : IssuesFrom s t := by
  cases i
  case evBerr | evColl =>
    obtain rfl := Host.Outcome.next.inj h
    rw [errorEvent_eq]
    exact ⟨_, rfl, rfl⟩
  case evAddr dir d | evAddrCont dir d =>
    obtain rfl := Host.Outcome.next.inj h
    exact addressEvent_issues dir d s
  case evStop =>
    obtain rfl := Host.Outcome.next.inj h
    exact stopEvent_issues s
  case evTx => rcases evTx_cases s t h with ⟨-, -, b, -, rfl⟩ | ⟨-, rfl⟩ <;> exact ⟨_, rfl, rfl⟩
  case evRx d =>
    rw [exec_evRx] at h
    obtain rfl := Host.Outcome.next.inj h
    split <;> exact ⟨_, rfl, rfl⟩
  case evNone =>
    obtain rfl := Host.Outcome.next.inj h
    exact ⟨_, rfl, rfl⟩
  all_goals simp [Instr.isEvent] at hi

/-- A `CBRET` while a burst is open closes it and is illegal (R155). -/
theorem exec_cbret_open (acc : Bool) {s : State} {b : Burst} (hb : s.burst = some b) :
    exec (.cbret acc) s = .next { s with burst := none, trace := s.trace ++ [.response .ill] } := by
  rw [exec, execCbret, command_open _ s hb]

/-- What a `CBRET` emits is one response and, where it resumes an invocation, outputs that the core issues (R166 to R171); no burst is
open after it. -/
theorem exec_cbret_outputs {acc : Bool} {s t : State} (h : exec (.cbret acc) s = .next t) :
    t.burst = none ∧ ∃ items, t.trace = s.trace ++ items ∧
      items.countP Output.isResponse = 1 ∧ items.all Output.isIssued = true := by
  rcases Option.eq_none_or_eq_some s.burst with hb | ⟨b, hb⟩
  · obtain ⟨u, hu, hcases⟩ := execCbret_cases acc s hb
    obtain rfl : u = t := Host.Outcome.next.inj (hu.symm.trans h)
    rcases hcases with ⟨-, rfl⟩ | ⟨-, -, rfl⟩ | ⟨-, -, -, rfl⟩ | ⟨-, -, -, -, rfl⟩ | ⟨-, -, -, -, rfl⟩ | ⟨-, rfl⟩ | ⟨-, rfl⟩ <;>
      exact ⟨hb, _, rfl, rfl, rfl⟩
  · obtain rfl := Host.Outcome.next.inj ((exec_cbret_open acc hb).symm.trans h)
    exact ⟨rfl, _, rfl, rfl, rfl⟩

theorem exec_command_issues {i : Instr} {s t : State} (hi : i.isEvent = false) (hc : ∀ acc, i ≠ .cbret acc)
    (h : exec i s = .next t) : IssuesFrom s t := by
  rcases command_cases i s t hi hc h with ⟨r, rfl⟩ | ⟨b, -, -, rfl⟩ | ⟨n, -, -, rfl⟩ | ⟨n, bytes, b, -, -, rfl⟩ |
    ⟨n, bytes, -, rfl⟩ | ⟨b, -, -, -, -, rfl⟩ | ⟨m, -, rfl⟩ | ⟨e, -, rfl⟩
  -- opening a burst and keeping a beat of it emit nothing (R154)
  case inr.inr.inl | inr.inr.inr.inl => exact ⟨[], (List.append_nil _).symm, rfl⟩
  all_goals exact ⟨_, rfl, rfl⟩

theorem exec_issues {i : Instr} {s t : State} (h : exec i s = .next t) : IssuesFrom s t := by
  cases hi : i.isEvent with
  | true => exact exec_event_issues hi h
  | false =>
    by_cases hc : ∃ acc, i = .cbret acc
    · obtain ⟨acc, rfl⟩ := hc
      obtain ⟨-, items, htrace, -, hissued⟩ := exec_cbret_outputs h
      exact ⟨items, htrace, hissued⟩
    · exact exec_command_issues hi (not_exists.mp hc) h

theorem arrive_trace (s : State) : (arrive s).trace = s.trace := by
  rcases arrive_cases s with ⟨rest, -, h⟩ | ⟨evs, cmds, rest, h⟩
  · rw [h, resetInput_trace]
  · rw [h]

theorem step_issues {s t : State} (h : step s = .next t) : IssuesFrom s t := by
  rcases step_cases s with ⟨-, w, ws, -, hs⟩ | ⟨-, c, cs, -, hs⟩ | ⟨-, -, hs⟩ <;> rw [hs] at h
  · exact exec_issues (s := { s with evIn := ws }) h
  · exact exec_issues (s := { s with cmdIn := cs }) h
  · obtain rfl := Host.Outcome.next.inj h
    exact ⟨[], by simp [arrive_trace], rfl⟩

/-- Settles O54: of the outputs a step appends, every directive is one that the core issues. -/
theorem onlyTwoDirectivesAreIssued : Obligations.OnlyTwoDirectivesAreIssued := by
  refine ⟨⟨rfl, rfl, rfl, rfl⟩, fun s t h => ?_⟩
  obtain ⟨items, htrace, hissued⟩ := step_issues h
  exact ⟨items, htrace, fun d hd => isIssued_directive.mp (List.all_eq_true.mp hissued _ hd)⟩

/-! ### Responses -/

/-- From `s` to `t` one response is emitted, or none where a burst is open in `t` (R86, R154). -/
def RespondsFrom (s t : State) : Prop :=
  ∃ items, t.trace = s.trace ++ items ∧ items.countP Output.isResponse = if t.burst = none then 1 else 0

theorem respondsFrom_of_closed {s t : State} {items : List Output} (hb : t.burst = none) (ht : t.trace = s.trace ++ items)
    (hone : items.countP Output.isResponse = 1) : RespondsFrom s t :=
  ⟨items, ht, by rw [hone, if_pos hb]⟩

theorem respondsFrom_of_open {s t : State} {b : Burst} (hb : t.burst = some b) (ht : t.trace = s.trace) : RespondsFrom s t :=
  ⟨[], by simp [ht], by simp [hb]⟩

theorem exec_command_responds {i : Instr} {s t : State} (hi : i.isEvent = false) (hc : ∀ acc, i ≠ .cbret acc)
    (h : exec i s = .next t) : RespondsFrom s t := by
  rcases command_cases i s t hi hc h with ⟨r, rfl⟩ | ⟨b, hb, -, rfl⟩ | ⟨n, -, -, rfl⟩ | ⟨n, bytes, b, -, -, rfl⟩ |
    ⟨n, bytes, -, rfl⟩ | ⟨b, hb, -, -, -, rfl⟩ | ⟨m, hb, rfl⟩ | ⟨e, hb, rfl⟩
  · exact respondsFrom_of_closed rfl rfl rfl
  · exact respondsFrom_of_closed hb rfl rfl
  · exact respondsFrom_of_open rfl rfl
  · exact respondsFrom_of_open rfl rfl
  · exact respondsFrom_of_closed rfl rfl rfl
  · exact respondsFrom_of_closed hb rfl rfl
  · exact respondsFrom_of_closed hb rfl rfl
  · exact respondsFrom_of_closed hb rfl rfl

/-- Settles O43: `CBRET` and every other command respond once, but for a header and a beat that leave a burst open. -/
theorem eachCommandReturnsOneResponse : Obligations.EachCommandReturnsOneResponse := by
  intro i s t hi h
  by_cases hc : ∃ acc, i = .cbret acc
  · obtain ⟨acc, rfl⟩ := hc
    obtain ⟨hb, items, htrace, hone, -⟩ := exec_cbret_outputs h
    exact respondsFrom_of_closed hb htrace hone
  · exact exec_command_responds hi (not_exists.mp hc) h

end Sys2Proof.Machine
end

section
/-! The address machine (40_bus_events.md R103 to R112): a first byte of a 10-bit address, a fresh 7-bit address and a second byte, each
as one whole next state, with the values the rules name. -/

namespace Sys2Proof.Machine

/-! ### The values computed from an address byte -/

@[simp] theorem isTenBitStart_iff (d : Byte) : isTenBitStart d = true ↔ d &&& 0xF9#8 = 0xF0#8 := beq_iff_eq

theorem isTenBitStart_eq_false {d : Byte} (h : d &&& 0xF9#8 ≠ 0xF0#8) : isTenBitStart d = false :=
  Bool.eq_false_iff.mpr (mt (isTenBitStart_iff d).mp h)

/-- The bits `xx` and the second byte side by side are `(xx << 8) | zzzzzzzz` (R107). -/
theorem assembledAddress_eq (addr : BitVec 10) (d : Byte) :
    assembledAddress addr d = ((addr >>> 1 &&& 3#10) <<< 8) ||| d.setWidth 10 := by
  ext i hi
  refine (BitVec.getElem_append (x := addr.extractLsb' 1 2) (y := d) hi).trans ?_
  interval_cases i <;> simp

/-- The bits `xx` of a stored first byte `11110xx0` are `addr[2:1]` (R105, R107). -/
theorem assembledAddress_tenBitByte (xx : BitVec 2) (z : Byte) :
    assembledAddress (rawAddress (tenBitByte xx)) z = xx ++ z := by
  have hxx : (rawAddress (tenBitByte xx)).extractLsb' 1 2 = xx := by revert xx; decide
  rw [assembledAddress, hxx]

theorem isTenBitStart_tenBitByte (xx : BitVec 2) : isTenBitStart (tenBitByte xx) = true := by revert xx; decide

/-! ### Acceptance -/

theorem acceptedAddress_false (s : State) : acceptedAddress false s = acceptWrite s := (acceptWrite_eq s).symm

theorem acceptedAddress_true (s : State) : acceptedAddress true s = acceptRead s := (acceptRead_eq s).symm

/-- Accepting goes by the direction of the event (R108). -/
theorem addressDecision_true (s : State) : addressDecision true s = acceptedAddress s.evdir s := by
  cases h : s.evdir
  · simp [addressDecision, h, acceptedAddress_false]
  · simp [addressDecision, h, acceptedAddress_true]

theorem dispatchAddress_registered (a : BitVec 10) (s : State) (h : s.cben[0] = true) :
    dispatchAddress a s = { s with cst := .wAddr, trace := s.trace ++ [.callback .addr a s.sc 0] } := by
  rw [dispatchAddress_eq, if_pos h]

theorem dispatchAddress_unregistered (a : BitVec 10) (s : State) (h : s.cben[0] = false) :
    dispatchAddress a s = acceptedAddress s.evdir s := by
  simp [dispatchAddress, h, addressDecision_true]

/-! ### Address events -/

section
variable {i : Instr} {dir : Bool} {d : Byte} (hi : IsAddressEvent i dir d) (s : State)
include hi

theorem exec_addressEvent : exec i s = .next (addressEvent dir d s) := by
  rcases hi with rfl | rfl <;> rfl

/-- The first byte of a 10-bit address (R104, R105). -/
theorem exec_address_tenBitStart (he : s.extp = false) (ht : isTenBitStart d = true) : exec i s = .next { s with
    evdir := dir, addr := rawAddress d, sc := nextStartCount s.sc, extp := true
    trace := s.trace ++ [.directive .ackContinue, .irqDone] } := by
  rw [exec_addressEvent hi s]
  simp [addressEvent, he, freshAddress, ht, tenBitFirstByte_eq]

/-- A fresh 7-bit address (R104, R106). -/
theorem exec_address_fresh (he : s.extp = false) (ht : isTenBitStart d = false) : exec i s = .next
    (dispatchAddress (resolvedAddress d) { s with evdir := dir, addr := rawAddress d, sc := nextStartCount s.sc }) := by
  rw [exec_addressEvent hi s]
  simp [addressEvent, he, freshAddress, ht]

/-- The second byte of a 10-bit address (R107). -/
theorem exec_address_second (he : s.extp = true) : exec i s = .next
    (dispatchAddress (assembledAddress s.addr d)
      { s with evdir := dir, addr := assembledAddress s.addr d, extp := false }) := by
  rw [exec_addressEvent hi s]
  simp [addressEvent, he, secondAddressByte]

theorem exec_address_fresh_registered (he : s.extp = false) (ht : isTenBitStart d = false) (hc : s.cben[0] = true) :
    exec i s = .next { s with
      evdir := dir, addr := rawAddress d, sc := nextStartCount s.sc, cst := .wAddr
      trace := s.trace ++ [.callback .addr (resolvedAddress d) (nextStartCount s.sc) 0] } :=
  (exec_address_fresh hi s he ht).trans (congrArg _ (dispatchAddress_registered _ _ hc))

theorem exec_address_fresh_unregistered (he : s.extp = false) (ht : isTenBitStart d = false) (hc : s.cben[0] = false) :
    exec i s = .next
      (acceptedAddress dir { s with evdir := dir, addr := rawAddress d, sc := nextStartCount s.sc }) :=
  (exec_address_fresh hi s he ht).trans (congrArg _ (dispatchAddress_unregistered _ _ hc))

theorem exec_address_second_registered (he : s.extp = true) (hc : s.cben[0] = true) : exec i s = .next { s with
    evdir := dir, addr := assembledAddress s.addr d, extp := false, cst := .wAddr
    trace := s.trace ++ [.callback .addr (assembledAddress s.addr d) s.sc 0] } :=
  (exec_address_second hi s he).trans (congrArg _ (dispatchAddress_registered _ _ hc))

theorem exec_address_second_unregistered (he : s.extp = true) (hc : s.cben[0] = false) : exec i s = .next
    (acceptedAddress dir { s with evdir := dir, addr := assembledAddress s.addr d, extp := false }) :=
  (exec_address_second hi s he).trans (congrArg _ (dispatchAddress_unregistered _ _ hc))

end

/-- Settles O11: the four bytes by evaluation over all bytes, the next state by R105. -/
theorem tenBitFirstByteStartsAssembly : Obligations.TenBitFirstByteStartsAssembly := by
  refine ⟨by decide, fun i dir d s hi he ht => ?_⟩
  exact exec_address_tenBitStart hi s he ((isTenBitStart_iff d).mpr ht)

/-- Settles O12: no 10-bit start, so the resolved address is dispatched, to the registered callback. -/
theorem freshAddressRequestsTheAddrCallback : Obligations.FreshAddressRequestsTheAddrCallback := by
  intro i dir d s hi he ht hc
  exact exec_address_fresh_registered hi s he (isTenBitStart_eq_false ht) hc

/-- Settles O13: no 10-bit start, so the resolved address is dispatched, and no callback decides. -/
theorem freshAddressWithoutCallbackIsAccepted : Obligations.FreshAddressWithoutCallbackIsAccepted := by
  intro i dir d s hi he ht hc
  exact exec_address_fresh_unregistered hi s he (isTenBitStart_eq_false ht) hc

/-- Settles O14: the assembled address is dispatched, to the callback where it is registered. -/
theorem secondByteCompletesTheAddress : Obligations.SecondByteCompletesTheAddress := by
  rintro i dir d s a hi he rfl
  rw [← assembledAddress_eq]
  exact ⟨exec_address_second_registered hi s he, exec_address_second_unregistered hi s he⟩

/-- The two bytes of a 10-bit address are one start, and one callback after the second byte (R105, R107). -/
theorem execList_tenBitAddress (dir dir2 : Bool) (xx : BitVec 2) (z : Byte) (s : State) (he : s.extp = false)
    (hc : s.cben[0] = true) : execList [.evAddr dir (tenBitByte xx), .evAddrCont dir2 z] s = .next { s with
      evdir := dir2, addr := xx ++ z, sc := nextStartCount s.sc, extp := false, cst := .wAddr
      trace := s.trace ++ [.directive .ackContinue, .irqDone, .callback .addr (xx ++ z) (nextStartCount s.sc) 0] } := by
  rw [execList_cons (exec_address_tenBitStart (.inl rfl) s he (isTenBitStart_tenBitByte xx)),
    execList_cons (exec_address_second_registered (.inr rfl) _ ?_ ?_)]
  · simp [assembledAddress_tenBitByte]
  · rfl
  · exact hc

/-- Settles O15: read off the state after both bytes. -/
theorem tenBitAddressFiresTheCallbackOnce : Obligations.TenBitAddressFiresTheCallbackOnce := by
  intro dir dir2 xx z s he hc
  exact ⟨_, execList_tenBitAddress dir dir2 xx z s he hc, rfl, rfl, rfl, rfl, rfl, rfl⟩

/-- Settles O16: the byte is no 10-bit start, and its values are computed for the four `xx`. -/
theorem tenBitReadByteIsASevenBitAddress : Obligations.TenBitReadByteIsASevenBitAddress := by
  intro dir xx s he hc
  have hstart : isTenBitStart (0b11110#5 ++ xx ++ 1#1) = false := by revert xx; decide
  have hresolved : resolvedAddress (0b11110#5 ++ xx ++ 1#1) = 0x78#10 ||| xx.setWidth 10 := by revert xx; decide
  have hraw : rawAddress (0b11110#5 ++ xx ++ 1#1) = 0xF1#10 ||| (xx.setWidth 10 <<< 1) := by revert xx; decide
  refine ⟨_, exec_address_fresh_registered (.inl rfl) s he hstart hc, ?_, hraw, rfl, he⟩
  rw [hresolved]
  rfl

end Sys2Proof.Machine
end

section
/-! The ends of an invocation and its events outside ADDRESS (40_bus_events.md R102, R109 to R121, R125): the return from the `ADDR`
callback, a bus error, STOP, the data phases and NONE, and the words that decode to them (R74). -/

namespace Sys2Proof.Machine

/-! ### The return from the `ADDR` callback -/

/-- The return answers `Ack` and goes on with the decision (R167). -/
theorem exec_cbret_wAddr (acc : Bool) (s : State) (hb : s.burst = none) (hc : s.cst = .wAddr) :
    exec (.cbret acc) s = .next (addressDecision acc { s with trace := s.trace ++ [.response .ack] }) := by
  simp only [exec, execCbret, command_closed _ s hb, hc]
  rfl

theorem exec_cbret_reject (s : State) (hb : s.burst = none) (hc : s.cst = .wAddr) :
    exec (.cbret false) s = .next { s with
      xst := .idle, cst := .ready
      trace := s.trace ++ [.response .ack, .directive .nackWaitStart, .irqDone] } := by
  simp [exec_cbret_wAddr false s hb hc, addressDecision, reject_eq]

theorem exec_cbret_accept (s : State) (hb : s.burst = none) (hc : s.cst = .wAddr) : exec (.cbret true) s = .next
    (acceptedAddress s.evdir { s with trace := s.trace ++ [.response .ack] }) := by
  rw [exec_cbret_wAddr true s hb hc, addressDecision_true]

/-- Settles O17: the decision is `Reject()`. -/
theorem rejectTouchesNoBufferState : Obligations.RejectTouchesNoBufferState := exec_cbret_reject

/-- Settles O18: the decision is to accept, by the direction that the event left in `evdir`. -/
theorem acceptSetsUpTheTransaction : Obligations.AcceptSetsUpTheTransaction := exec_cbret_accept

theorem exec_setcb (m : BitVec 4) (s : State) (hb : s.burst = none) :
    exec (.setcb m) s = .next { s with cben := m, trace := s.trace ++ [.response .ack] } :=
  command_closed (fun s => .next (respond .ack { s with cben := m })) s hb

/-- Settles O23: the return accepts a read with the `cben` that `SETCB` wrote, and the read asks its bit 2. -/
theorem setcbInsideTheAddrCallbackDecidesReq : Obligations.SetcbInsideTheAddrCallbackDecidesReq := by
  intro m s hb hc hdir
  rw [execList_cons (exec_setcb m s hb), execList_cons (exec_cbret_accept _ ?_ ?_), execList_nil, hdir,
    acceptedAddress_true]
  · refine ⟨_, rfl, ?_⟩
    rw [acceptRead_eq]
    cases m[2] <;> simp
  · exact hb
  · exact hc

/-! ### The words of the classes ERROR, STOP, TXDATA, RXDATA and NONE (R74) -/

section
variable {extp : Bool} {w : EventWord}

theorem decodeEvent_error (h : w[13] = true ∨ w[12] = true) :
    decodeEvent extp w = .evBerr ∨ decodeEvent extp w = .evColl := by
  rw [decodeEvent_eq]
  cases hberr : w.berr
  · have hcoll : w.coll = true := h.resolve_left (Bool.eq_false_iff.mp hberr)
    simp [hcoll]
  · simp

/-- Where none of BERR, COLL and AM is set and no 10-bit address is continued, STOP and the data phases are left. -/
theorem decodeEvent_of_not_address (hberr : w[13] = false) (hcoll : w[12] = false) (ham : w[11] = false)
    (hcont : ¬ (w[9] = true ∧ extp = true)) : decodeEvent extp w =
      if w[10] then .evStop else if w[9] && w[8] then .evTx else if w[9] then .evRx (w.extractLsb 7 0) else .evNone := by
  have hcont' : (w.dif && extp) = false := by simpa [EventWord.dif] using hcont
  rw [decodeEvent_eq, show w.berr = false from hberr, show w.coll = false from hcoll, show w.am = false from ham, hcont']
  rfl

end

/-! ### ERROR -/

theorem exec_evStop_idle (s : State) (hx : s.xst = .idle) : exec .evStop s = .next { s with
    sc := noStartYet, extp := false, cst := .ready, trace := s.trace ++ [.irqDone] } := by
  simp [exec, execEvStop, stopEvent, hx, finishStop_eq]

/-- Settles O10: such a word is `ev.berr` or `ev.coll`, and the STOP after it finds no accepted transaction. -/
theorem errorAbandonsTheTransaction : Obligations.ErrorAbandonsTheTransaction := by
  intro i s hi
  have herror : i = .evBerr ∨ i = .evColl := by
    rcases hi with rfl | rfl | ⟨w, hw, rfl⟩
    · exact .inl rfl
    · exact .inr rfl
    · exact decodeEvent_error hw
  have hexec : exec i s = .next (errorEvent s) := by rcases herror with rfl | rfl <;> rfl
  exact ⟨_, hexec, errorEvent_eq s, _, exec_evStop_idle _ rfl, rfl⟩

/-! ### STOP -/

theorem exec_evStop_tx (s : State) (hx : s.xst = .tx) (hc : s.cben[3] = true) :
    exec .evStop s = .next { s with cst := .wStop, trace := s.trace ++ [.callback .stop 0 0 0] } := by
  refine congrArg Host.Outcome.next ?_
  simpa [hx, hc] using stopEvent_cases s

/-- Settles O26: a STOP word with nothing of a higher priority, and the STOP handler by the direction of the transaction. -/
theorem stopFollowsTheDirectionOfTheTransaction : Obligations.StopFollowsTheDirectionOfTheTransaction := by
  refine ⟨fun extp w hberr hcoll ham hstop hcont => ?_, fun s => ⟨exec_evStop_tx s, fun hx hc => ?_,
    exec_evStop_rx s, fun hx hc => ?_, exec_evStop_idle s⟩⟩
  · rw [decodeEvent_of_not_address hberr hcoll ham hcont, if_pos hstop]
  all_goals
    refine congrArg Host.Outcome.next ?_
    simpa [hx, hc, finishStop_eq, noStartYet] using stopEvent_cases s

/-! ### Data phases -/

/-- With a staged byte left TXDATA sends it (R117). -/
theorem exec_evTx_send (s : State) {b : Byte} (hlt : s.txIdx.toNat < s.txLen.toNat)
    (hread : bufRead s s.txIdx.toNat = some b) : exec .evTx s = .next { s with
      txIdx := s.txIdx + 1, trace := s.trace ++ [.txByte b, .directive .ackContinue, .irqDone] } := by
  rw [exec_evTx, if_pos hlt, hread]

/-- Settles O27: a TXDATA word, and a read in range or an overrun. -/
theorem txDataSendsTheNextByteOrNacks : Obligations.TxDataSendsTheNextByteOrNacks := by
  refine ⟨fun w hberr hcoll ham hstop hdif hdir => ?_, fun s => ⟨fun hlt hC => ?_, exec_evTx_overrun s⟩⟩
  · simp [decodeEvent_of_not_address hberr hcoll ham, hstop, hdif, hdir]
  · obtain ⟨b, hread, hwritten⟩ := bufRead_some s hC
    exact ⟨b, hread, hwritten, exec_evTx_send s hlt hread⟩

theorem exec_evRx_overrun (d : Byte) (s : State) (h : s.C ≤ s.rxLen.toNat) :
    exec (.evRx d) s = .next { s with trace := s.trace ++ [.directive .nackWaitStart, .irqDone] } := by
  rw [exec_evRx, if_neg (Nat.not_lt.mpr h)]

/-- Settles O28: an RXDATA word, and a write where there is room or an overrun. -/
theorem rxDataStoresTheByteOrNacks : Obligations.RxDataStoresTheByteOrNacks := by
  refine ⟨fun w hberr hcoll ham hstop hdif hdir => ?_, fun d s => ⟨fun hlt => ?_, exec_evRx_overrun d s⟩⟩
  · simp [decodeEvent_of_not_address hberr hcoll ham, hstop, hdif, hdir]
  · refine ⟨s.buf.write s.rxLen.toNat d, ?_, index_succ_toNat s.rxLen hlt s.C_le, fun a => ?_⟩
    · rw [exec_evRx, if_pos hlt]
    · exact Memory.read_write s.buf s.rxLen.toNat a d

/-- Bytes that come when the buffer is full are answered NACK, and nothing else (R120). -/
theorem execList_evRx_overrun (ds : List Byte) (s : State) (h : s.C ≤ s.rxLen.toNat) :
    execList (ds.map Instr.evRx) s = .next { s with
      trace := s.trace ++ (List.replicate ds.length [Output.directive .nackWaitStart, .irqDone]).flatten } := by
  induction ds generalizing s with
  | nil => simp
  | cons d ds ih =>
    rw [List.map_cons, execList_cons (exec_evRx_overrun d s h), ih]
    · simp only [List.length_cons, List.replicate_succ, List.flatten_cons, List.append_assoc]
    · exact h

/-- Of the received bytes the first `k` that fit are stored, and the rest overrun (R119, R120). -/
theorem execList_evRx_until_full (ds : List Byte) (s : State) {k : Nat} (hk : s.rxLen.toNat + k = s.C) :
    execList (ds.map Instr.evRx) s = .next { s with
      buf := s.buf.writeAll s.rxLen.toNat (ds.take k), rxLen := s.rxLen + BitVec.ofNat 8 (min ds.length k)
      trace := s.trace ++ (List.replicate (min ds.length k) [Output.directive .ackContinue, .irqDone]).flatten ++
        (List.replicate (ds.length - k) [Output.directive .nackWaitStart, .irqDone]).flatten } := by
  rcases le_total ds.length k with hfit | hover
  · simp [execList_evRx ds s (by omega), List.take_of_length_le hfit, hfit]
  · have htaken : (ds.take k).length = k := List.length_take_of_le hover
    have hfill := execList_evRx (ds.take k) s (by omega)
    rw [htaken] at hfill
    conv_lhs => rw [← List.take_append_drop k ds, List.map_append]
    rw [execList_append hfill, execList_evRx_overrun]
    · simp [hover]
    · have hC := s.C_le
      change s.C ≤ (s.rxLen + BitVec.ofNat 8 k).toNat
      rw [BitVec.toNat_add, index_ofNat_toNat] <;> omega

/-- Settles O29: the stored bytes are the first that fit, from the old `rxLen` on. -/
theorem receivedBytesFillTheBufferAndNoMore : Obligations.ReceivedBytesFillTheBufferAndNoMore := by
  intro ds s h
  obtain ⟨k, hk⟩ := Nat.le.dest h
  have hend : s.rxLen.toNat + (ds.take k).length = min s.C (s.rxLen.toNat + ds.length) := by
    rw [List.length_take]; omega
  have hlen : (s.rxLen + BitVec.ofNat 8 (min ds.length k)).toNat = min s.C (s.rxLen.toNat + ds.length) := by
    have hC := s.C_le
    rw [BitVec.toNat_add, index_ofNat_toNat] <;> omega
  rw [Nat.sub_eq_of_eq_add' hk.symm]
  refine ⟨_, execList_evRx_until_full ds s hk, hlen, rfl, fun a => ?_, rfl⟩
  simp only [Memory.read_writeAll, hend, hlen]
  split_ifs with hin
  · exact List.getElem?_take_of_lt (by omega)
  · rfl

/-! ### NONE -/

/-- Settles O30: the word with no flag set and DATA 0 decodes to `ev.none`, and in this class no other bit is read. -/
theorem noneOnlyEndsTheInvocation : Obligations.NoneOnlyEndsTheInvocation := by
  refine ⟨fun extp w h => ?_, fun s => rfl⟩
  obtain ⟨-, hignored⟩ := unusedEventFieldsAreIgnored extp 0#14 w
  have hzero : decodeEvent extp 0#14 = .evNone := by cases extp <;> rfl
  rw [← hzero]
  exact (hignored h.symm (.inr (.inr (by cases extp <;> rfl)))).symm

end Sys2Proof.Machine
end

section
/-! The rules of every invocation (40_bus_events.md): when an event is accepted (R100), how a segment ends (R76, R122), and what an
invocation leaves alone (R126). -/

namespace Sys2Proof.Machine

/-! ### Acceptance -/

theorem arrive_evIn (s : State) : s.evIn <+: (arrive s).evIn := by
  rcases arrive_cases s with ⟨rest, -, h⟩ | ⟨evs, cmds, rest, h⟩ <;> rw [h]
  · exact ⟨[], List.append_nil _⟩
  · exact ⟨evs, rfl⟩

/-- Settles O8: where no event is accepted, a step runs a command, which leaves the event port alone, or is an arrival. -/
theorem unacceptedEventsStayPending : Obligations.UnacceptedEventsStayPending := by
  refine ⟨fun s w ws hc hie hb => step_of_event ((acceptsEvent_iff s).mpr ⟨hc, hie, hb⟩), fun s t hno ht => ?_⟩
  rcases step_cases s with ⟨ha, -⟩ | ⟨-, c, cs, -, hs⟩ | ⟨-, -, hs⟩
  · obtain ⟨hc, hie, hb⟩ := (acceptsEvent_iff s).mp ha
    simp [hc, hie, hb] at hno
  · rw [hs] at ht
    obtain ⟨hev, -⟩ := (keepsAgents_iff _ _).mp (exec_keepsAgents ht)
    rw [hev]
  · rw [hs] at ht
    obtain rfl := Host.Outcome.next.inj ht
    exact arrive_evIn s

/-! ### The outputs of a segment -/

theorem endsInvocation_irqDone : EndsInvocation [.irqDone] where
  noCallback := rfl
  oneIrqDone := rfl
  irqDoneLast := rfl
  atMostOneTxByte := Nat.zero_le 1
  atMostOneDirective := Nat.zero_le 1
  directiveBeforeIrqDone := by rintro (_ | j) d hj <;> simp at hj

theorem endsInvocation_directive (d : Directive) : EndsInvocation [.directive d, .irqDone] where
  noCallback := rfl
  oneIrqDone := rfl
  irqDoneLast := rfl
  atMostOneTxByte := Nat.zero_le 1
  atMostOneDirective := le_rfl
  directiveBeforeIrqDone := by rintro (_ | _ | j) d' hj <;> simp at hj ⊢

/-- An output before the end that is no part of it: a response, an `ErrClr`, or the one `TxByte`. -/
theorem EndsInvocation.cons {o : Output} {items : List Output} (h : EndsInvocation items) (hcallback : o.isCallback = false)
    (hirqDone : o.isIrqDone = false) (hdirective : o.isDirective = false)
    (htx : o.isTxByte = true → items.countP Output.isTxByte = 0) : EndsInvocation (o :: items) where
  noCallback := by simp [hcallback, h.noCallback]
  oneIrqDone := by simp [hirqDone, h.oneIrqDone]
  irqDoneLast := by rw [List.getLast?_cons, h.irqDoneLast]; rfl
  atMostOneTxByte := by
    cases hb : o.isTxByte
    · simpa [hb] using h.atMostOneTxByte
    · simp [hb, htx hb]
  atMostOneDirective := by simpa [hdirective] using h.atMostOneDirective
  directiveBeforeIrqDone := by
    rintro (_ | j) d hj
    · obtain rfl : o = .directive d := Option.some.inj hj
      cases hdirective
    · exact h.directiveBeforeIrqDone j d hj

theorem EndsInvocation.response {items : List Output} (h : EndsInvocation items) (r : Response) :
    EndsInvocation (.response r :: items) :=
  h.cons rfl rfl rfl nofun

/-- A segment of an invocation from `s` to `t`: it ends the invocation, or suspends it at a callback (R122, R212). -/
def SegmentFrom (s t : State) : Prop :=
  ∃ items, t.trace = s.trace ++ items ∧
    ((t.cst = .ready ∧ EndsInvocation items) ∨ ∃ kind : CallbackKind, t.cst = kind.waitState ∧ SuspendsInvocation items kind)

section
variable {s t : State} {items : List Output}

theorem segmentFrom_of_end (hc : t.cst = .ready) (ht : t.trace = s.trace ++ items) (h : EndsInvocation items) :
    SegmentFrom s t :=
  ⟨items, ht, .inl ⟨hc, h⟩⟩

/-- The `Ack` of a `CBRET` may stand before the callback (R166). -/
theorem segmentFrom_of_callback {pre : List Output} {kind : CallbackKind} {a : BitVec 10} {c l : Byte}
    (hpre : pre = [] ∨ pre = [.response .ack]) (hc : t.cst = kind.waitState)
    (ht : t.trace = s.trace ++ (pre ++ [.callback kind a c l])) : SegmentFrom s t := by
  refine ⟨_, ht, .inr ⟨kind, hc, ?_⟩⟩
  rcases hpre with rfl | rfl <;> exact ⟨rfl, rfl, a, c, l, rfl⟩

end

theorem acceptWrite_segment (s : State) : SegmentFrom s (acceptWrite s) := by
  rw [acceptWrite_eq]
  exact segmentFrom_of_end rfl rfl (endsInvocation_directive _)

theorem acceptRead_segment (s : State) : SegmentFrom s (acceptRead s) := by
  rcases acceptRead_cases s with ⟨-, h⟩ | ⟨-, h⟩ <;> rw [h]
  · exact segmentFrom_of_callback (kind := .req) (.inl rfl) rfl rfl
  · exact segmentFrom_of_end rfl rfl (endsInvocation_directive _)

theorem finishStop_segment (s : State) : SegmentFrom s (finishStop s) :=
  segmentFrom_of_end rfl rfl endsInvocation_irqDone

theorem dispatchAddress_segment (a : BitVec 10) (s : State) : SegmentFrom s (dispatchAddress a s) := by
  rcases dispatchAddress_cases a s with ⟨-, h⟩ | ⟨-, -, h⟩ | ⟨-, -, h⟩ <;> rw [h]
  · exact segmentFrom_of_callback (kind := .addr) (.inl rfl) rfl rfl
  · exact acceptWrite_segment s
  · exact acceptRead_segment s

theorem addressEvent_segment (dir : Bool) (d : Byte) (s : State) (hc : s.cst = .ready) :
    SegmentFrom s (addressEvent dir d s) := by
  rcases addressEvent_cases dir d s with ⟨-, -, h⟩ | ⟨-, -, h⟩ | ⟨-, h⟩ <;> rw [h]
  · exact segmentFrom_of_end hc rfl (endsInvocation_directive _)
  · exact dispatchAddress_segment _ _
  · exact dispatchAddress_segment _ _

theorem stopEvent_segment (s : State) : SegmentFrom s (stopEvent s) := by
  rcases stopEvent_cases s with ⟨-, -, h⟩ | ⟨-, -, h⟩ | ⟨-, -, h⟩ | ⟨-, -, h⟩ | ⟨-, h⟩ <;> rw [h]
  · exact segmentFrom_of_callback (kind := .stop) (.inl rfl) rfl rfl
  · exact segmentFrom_of_callback (kind := .rx) (.inl rfl) rfl rfl
  · exact finishStop_segment { s with rxIdx := 0 }
  · exact finishStop_segment s
  · exact finishStop_segment s

theorem exec_event_segment {i : Instr} {s t : State} (hi : i.isEvent = true) (hc : s.cst = .ready)
    (h : exec i s = .next t) : SegmentFrom s t := by
  cases i
  case evBerr | evColl =>
    obtain rfl := Host.Outcome.next.inj h
    rw [errorEvent_eq]
    exact segmentFrom_of_end hc rfl (endsInvocation_irqDone.cons rfl rfl rfl nofun)
  case evAddr dir d | evAddrCont dir d =>
    obtain rfl := Host.Outcome.next.inj h
    exact addressEvent_segment dir d s hc
  case evStop =>
    obtain rfl := Host.Outcome.next.inj h
    exact stopEvent_segment s
  case evTx =>
    rcases evTx_cases s t h with ⟨-, -, b, -, rfl⟩ | ⟨-, rfl⟩
    · exact segmentFrom_of_end hc rfl ((endsInvocation_directive _).cons rfl rfl rfl fun _ => rfl)
    · exact segmentFrom_of_end hc rfl (endsInvocation_directive _)
  case evRx d =>
    rw [exec_evRx] at h
    obtain rfl := Host.Outcome.next.inj h
    split <;> exact segmentFrom_of_end hc rfl (endsInvocation_directive _)
  case evNone =>
    obtain rfl := Host.Outcome.next.inj h
    exact segmentFrom_of_end hc rfl endsInvocation_irqDone
  all_goals simp [Instr.isEvent] at hi

theorem exec_cbret_segment {acc : Bool} {s t : State} (hc : s.cst ≠ .ready) (hb : s.burst = none)
    (h : exec (.cbret acc) s = .next t) : SegmentFrom s t := by
  obtain ⟨u, hu, hcases⟩ := execCbret_cases acc s hb
  obtain rfl : u = t := Host.Outcome.next.inj (hu.symm.trans h)
  rcases hcases with ⟨hready, -⟩ | ⟨-, -, rfl⟩ | ⟨-, -, -, rfl⟩ | ⟨-, -, -, -, rfl⟩ | ⟨-, -, -, -, rfl⟩ | ⟨-, rfl⟩ | ⟨-, rfl⟩
  · exact absurd hready hc
  case inr.inr.inr.inl => exact segmentFrom_of_callback (kind := .req) (.inr rfl) rfl rfl
  case inr.inr.inr.inr.inr.inr => exact segmentFrom_of_end rfl rfl (endsInvocation_irqDone.response _)
  all_goals exact segmentFrom_of_end rfl rfl ((endsInvocation_directive _).response _)

/-- Settles O53: event by event in `READY`, and wait by wait for a `CBRET`. -/
theorem segmentsEndOrSuspendTheInvocation : Obligations.SegmentsEndOrSuspendTheInvocation := by
  rintro i s t (⟨hi, hc⟩ | ⟨⟨acc, rfl⟩, hc, hb⟩) h
  · exact exec_event_segment hi hc h
  · exact exec_cbret_segment hc hb h

/-! ### The control elements -/

/-- What an invocation does not write (R126). -/
def State.control (s : State) : BitVec 4 × Bool × Option Burst := (s.cben, s.ie, s.burst)

theorem control_eq_iff (s t : State) :
    t.control = s.control ↔ t.cben = s.cben ∧ t.ie = s.ie ∧ t.burst = s.burst := by
  simp [State.control]

theorem dispatchAddress_control (a : BitVec 10) (s : State) : (dispatchAddress a s).control = s.control := by
  rw [dispatchAddress_eq, acceptRead_eq, acceptWrite_eq]
  split_ifs <;> rfl

theorem addressEvent_control (dir : Bool) (d : Byte) (s : State) : (addressEvent dir d s).control = s.control := by
  rcases addressEvent_cases dir d s with ⟨-, -, h⟩ | ⟨-, -, h⟩ | ⟨-, h⟩ <;> rw [h]
  · rfl
  · exact dispatchAddress_control _ _
  · exact dispatchAddress_control _ _

theorem stopEvent_control (s : State) : (stopEvent s).control = s.control := by
  rcases stopEvent_cases s with ⟨-, -, h⟩ | ⟨-, -, h⟩ | ⟨-, -, h⟩ | ⟨-, -, h⟩ | ⟨-, h⟩ <;> rw [h] <;> rfl

theorem exec_event_control {i : Instr} {s t : State} (hi : i.isEvent = true) (h : exec i s = .next t) :
    t.control = s.control := by
  cases i
  case evBerr | evColl | evNone =>
    obtain rfl := Host.Outcome.next.inj h
    rfl
  case evAddr dir d | evAddrCont dir d =>
    obtain rfl := Host.Outcome.next.inj h
    exact addressEvent_control dir d s
  case evStop =>
    obtain rfl := Host.Outcome.next.inj h
    exact stopEvent_control s
  case evTx => rcases evTx_cases s t h with ⟨-, -, b, -, rfl⟩ | ⟨-, rfl⟩ <;> rfl
  case evRx d =>
    rw [exec_evRx] at h
    obtain rfl := Host.Outcome.next.inj h
    split <;> rfl
  all_goals simp [Instr.isEvent] at hi

theorem exec_cbret_control {acc : Bool} {s t : State} (hb : s.burst = none) (h : exec (.cbret acc) s = .next t) :
    t.control = s.control := by
  obtain ⟨u, hu, hcases⟩ := execCbret_cases acc s hb
  obtain rfl : u = t := Host.Outcome.next.inj (hu.symm.trans h)
  rcases hcases with ⟨-, rfl⟩ | ⟨-, -, rfl⟩ | ⟨-, -, -, rfl⟩ | ⟨-, -, -, -, rfl⟩ | ⟨-, -, -, -, rfl⟩ | ⟨-, rfl⟩ | ⟨-, rfl⟩ <;>
    rfl

/-- The same state with other values of the two control elements that no invocation reads. -/
def State.setControl (ie : Bool) (burst : Option Burst) (s : State) : State := { s with ie := ie, burst := burst }

theorem setControl_none (ie : Bool) (s : State) (hb : s.burst = none) : s.setControl ie none = { s with ie := ie } := by
  simp [State.setControl, hb]

section
variable (ie : Bool) (burst : Option Burst) (s : State)

theorem addressDecision_setControl (acc : Bool) :
    addressDecision acc (s.setControl ie burst) = (addressDecision acc s).setControl ie burst := by
  simp only [addressDecision, acceptRead_eq, apply_ite (State.setControl ie burst)]
  rfl

theorem addressEvent_setControl (dir : Bool) (d : Byte) :
    addressEvent dir d (s.setControl ie burst) = (addressEvent dir d s).setControl ie burst := by
  simp only [addressEvent, freshAddress, secondAddressByte, dispatchAddress_eq, acceptRead_eq,
    apply_ite (State.setControl ie burst)]
  rfl

theorem stopEvent_setControl : stopEvent (s.setControl ie burst) = (stopEvent s).setControl ie burst := by
  have hxst : (s.setControl ie burst).xst = s.xst := rfl
  cases hx : s.xst <;> simp only [stopEvent, hxst, hx, stopAfterReceive_eq, apply_ite (State.setControl ie burst)] <;> rfl

end

theorem exec_event_setControl (ie : Bool) (burst : Option Burst) {i : Instr} {s t : State} (hi : i.isEvent = true)
    (h : exec i s = .next t) : exec i (s.setControl ie burst) = .next (t.setControl ie burst) := by
  cases i
  case evBerr | evColl | evNone =>
    obtain rfl := Host.Outcome.next.inj h
    rfl
  case evAddr dir d | evAddrCont dir d =>
    obtain rfl := Host.Outcome.next.inj h
    exact congrArg _ (addressEvent_setControl ie burst s dir d)
  case evStop =>
    obtain rfl := Host.Outcome.next.inj h
    exact congrArg _ (stopEvent_setControl ie burst s)
  case evTx =>
    rcases evTx_cases s t h with ⟨hlt, -, b, hread, rfl⟩ | ⟨hle, rfl⟩
    · exact exec_evTx_send (s.setControl ie burst) hlt hread
    · exact exec_evTx_overrun (s.setControl ie burst) hle
  case evRx d =>
    rw [exec_evRx] at h ⊢
    obtain rfl := Host.Outcome.next.inj h
    rw [apply_ite (State.setControl ie burst)]
    rfl
  all_goals simp [Instr.isEvent] at hi

theorem exec_cbret_setControl (ie : Bool) {acc : Bool} {s t : State} (hb : s.burst = none)
    (h : exec (.cbret acc) s = .next t) :
    exec (.cbret acc) (s.setControl ie none) = .next (t.setControl ie none) := by
  simp only [exec, execCbret] at h ⊢
  rw [command_closed _ s hb] at h
  obtain rfl := Host.Outcome.next.inj h
  rw [command_closed _ _ rfl]
  have hcst : (s.setControl ie none).cst = s.cst := rfl
  cases hc : s.cst <;> simp only [hcst, hc]
  case wAddr => exact congrArg _ (addressDecision_setControl ie none (respond .ack s) acc)
  all_goals rfl

/-- Settles O52: what an invocation writes is not among the control elements, and its meaning is the same for other values of `ie` and
`burst`. -/
theorem invocationsLeaveControlAlone : Obligations.InvocationsLeaveControlAlone := by
  refine ⟨fun i s t hi h => ⟨(control_eq_iff s t).mp (exec_event_control hi h), fun ie burst => ?_⟩,
    fun acc s t hb h => ?_⟩
  · exact exec_event_setControl ie burst hi h
  · obtain ⟨hcben, hie, hburst⟩ := (control_eq_iff s t).mp (exec_cbret_control hb h)
    rw [hb] at hburst
    refine ⟨⟨hcben, hie, hburst⟩, fun ie => ?_⟩
    rw [← setControl_none ie s hb, ← setControl_none ie t hburst]
    exact exec_cbret_setControl ie hb h

end Sys2Proof.Machine
end

section
/-! The address phases of a transaction (40_bus_events.md R123): each requests one `ADDR` callback, with the next count. -/

namespace Sys2Proof.Machine

/-- An address phase can begin, and the `ADDR` callback alone is registered. -/
structure State.AwaitsAddress (s : State) : Prop where
  cben : s.cben = 0b0001#4
  extp : s.extp = false
  cst : s.cst = .ready
  burst : s.burst = none

/-- From `s` to `t` the start counter goes up by `n`, and `ADDR` callbacks carry every value on the way. -/
def CountsUp (n : Nat) (s t : State) : Prop :=
  t.sc = s.sc + BitVec.ofNat 8 n ∧ ∃ items, t.trace = s.trace ++ items ∧
    items.filterMap Output.addrCallbackCount = (List.range n).map (fun k => s.sc + BitVec.ofNat 8 (k + 1))

theorem countsUp_zero_of_silent {s t : State} {items : List Output} (hsc : t.sc = s.sc)
    (htrace : t.trace = s.trace ++ items) (hsilent : items.filterMap Output.addrCallbackCount = []) : CountsUp 0 s t :=
  ⟨hsc.trans (BitVec.add_zero s.sc).symm, items, htrace, hsilent⟩

theorem countsUp_zero (s : State) : CountsUp 0 s s := countsUp_zero_of_silent rfl (List.append_nil _).symm rfl

theorem CountsUp.trans {m n : Nat} {s t u : State} (hst : CountsUp m s t) (htu : CountsUp n t u) :
    CountsUp (m + n) s u := by
  obtain ⟨hsc, items, htrace, hcounts⟩ := hst
  obtain ⟨hsc', items', htrace', hcounts'⟩ := htu
  refine ⟨by rw [hsc', hsc, BitVec.add_assoc, BitVec.ofNat_add], items ++ items', by simp [htrace', htrace], ?_⟩
  rw [List.filterMap_append, hcounts, hcounts', List.range_add, List.map_append, List.map_map, hsc]
  simp [BitVec.ofNat_add, BitVec.add_assoc, Function.comp_def]

/-! ### One address phase -/

/-- The bytes of the phase. -/
def AddressPhase.address : AddressPhase → List Instr
  | .seven dir d _ => [.evAddr dir d]
  | .ten dir dir2 xx z _ => [.evAddr dir (tenBitByte xx), .evAddrCont dir2 z]

/-- The answer of the phase's `ADDR` callback. -/
def AddressPhase.answer : AddressPhase → Bool
  | .seven _ _ acc | .ten _ _ _ _ acc => acc

theorem AddressPhase.instrs_eq (p : AddressPhase) : p.instrs = p.address ++ [.cbret p.answer] := by
  cases p <;> rfl

/-- The bytes of a phase are counted once, and the callback with the new count is outstanding (R105 to R107). -/
theorem execList_address {p : AddressPhase} (hp : p.proper = true) {s : State} (h : s.AwaitsAddress) :
    ∃ t, execList p.address s = .next t ∧ CountsUp 1 s t ∧
      t.cst = .wAddr ∧ t.cben = 0b0001#4 ∧ t.extp = false ∧ t.burst = none := by
  have hregistered : s.cben[0] = true := by rw [h.cben]; rfl
  cases p with
  | seven dir d acc =>
    have hfresh : isTenBitStart d = false := isTenBitStart_eq_false (bne_iff_ne.mp hp)
    refine ⟨_, execList_cons (exec_address_fresh_registered (.inl rfl) s h.extp hfresh hregistered), ?_⟩
    exact ⟨⟨rfl, _, rfl, rfl⟩, rfl, h.cben, h.extp, h.burst⟩
  | ten dir dir2 xx z acc =>
    refine ⟨_, execList_tenBitAddress dir dir2 xx z s h.extp hregistered, ?_⟩
    exact ⟨⟨rfl, _, rfl, rfl⟩, rfl, h.cben, rfl, h.burst⟩

/-- Without a `REQ` callback the decision is made at once, whatever it is (R109 to R112). -/
theorem exec_cbret_decides (acc : Bool) {s : State} (hc : s.cst = .wAddr) (hcben : s.cben = 0b0001#4)
    (he : s.extp = false) (hb : s.burst = none) :
    ∃ t, exec (.cbret acc) s = .next t ∧ CountsUp 0 s t ∧ t.AwaitsAddress := by
  have hreq : s.cben[2] = false := by rw [hcben]; rfl
  cases acc with
  | false => exact ⟨_, exec_cbret_reject s hb hc, countsUp_zero_of_silent rfl rfl rfl, hcben, he, rfl, hb⟩
  | true =>
    refine ⟨_, exec_cbret_accept s hb hc, ?_⟩
    cases s.evdir
    · rw [acceptedAddress_false, acceptWrite_eq]
      exact ⟨countsUp_zero_of_silent rfl (List.append_assoc _ _ _) rfl, hcben, he, rfl, hb⟩
    · rw [acceptedAddress_true, acceptRead_eq, if_neg (by simp [hreq])]
      exact ⟨countsUp_zero_of_silent rfl (List.append_assoc _ _ _) rfl, hcben, he, rfl, hb⟩

theorem execList_phase {p : AddressPhase} (hp : p.proper = true) {s : State} (h : s.AwaitsAddress) :
    ∃ t, execList p.instrs s = .next t ∧ CountsUp 1 s t ∧ t.AwaitsAddress := by
  obtain ⟨t, ht, hst, hc, hcben, he, hb⟩ := execList_address hp h
  obtain ⟨u, hu, htu, hawaits⟩ := exec_cbret_decides p.answer hc hcben he hb
  exact ⟨u, by rw [p.instrs_eq, execList_append ht, execList_cons hu, execList_nil], hst.trans htu, hawaits⟩

theorem execList_phases (ps : List AddressPhase) (hps : ps.all AddressPhase.proper = true) {s : State}
    (h : s.AwaitsAddress) :
    ∃ t, execList (ps.flatMap AddressPhase.instrs) s = .next t ∧ CountsUp ps.length s t ∧ t.AwaitsAddress := by
  induction ps generalizing s with
  | nil => exact ⟨s, rfl, countsUp_zero s, h⟩
  | cons p ps ih =>
    rw [List.all_cons, Bool.and_eq_true] at hps
    obtain ⟨hp, hps⟩ := hps
    obtain ⟨t, ht, hst, hawaits⟩ := execList_phase hp h
    obtain ⟨u, hu, htu, hawaits'⟩ := ih hps hawaits
    refine ⟨u, ?_, ?_, hawaits'⟩
    · rw [List.flatMap_cons, execList_append ht, hu]
    · rw [List.length_cons, Nat.add_comm]
      exact hst.trans htu

/-! ### The end of the transaction -/

/-- With neither the RX nor the STOP callback registered, each of the three ends the transaction at once (R102, R116). -/
theorem exec_end_sc {i : Instr} (hi : i = .evStop ∨ i = .evBerr ∨ i = .evColl) {s : State} (hcben : s.cben = 0b0001#4) :
    ∃ t, exec i s = .next t ∧ t.sc = 0xFF#8 := by
  have hrx : s.cben[1] = false := by rw [hcben]; rfl
  have hstop : s.cben[3] = false := by rw [hcben]; rfl
  rcases hi with rfl | rfl | rfl
  · refine ⟨_, rfl, ?_⟩
    obtain ⟨hsc, -⟩ := stopEvent_countsTo s
    simpa [hrx, hstop] using hsc
  · exact ⟨_, rfl, rfl⟩
  · exact ⟨_, rfl, rfl⟩

/-- From the sentinel on the counts are 0, 1, 2, ... as signed numbers, up to 127. -/
theorem toInt_count {k : Nat} (hk : k < 128) : (0xFF#8 + BitVec.ofNat 8 (k + 1)).toInt = Int.ofNat k := by
  have hcount : (0xFF#8 + BitVec.ofNat 8 (k + 1)).toNat = k := by simp [BitVec.toNat_add]; omega
  rw [BitVec.toInt_eq_toNat_of_lt (by omega), hcount]
  rfl

/-- Settles O57: the counts of the phases, read from the sentinel on, and the end of the transaction. -/
theorem addrCallbacksCountTheAddressPhases : Obligations.AddrCallbacksCountTheAddressPhases := by
  intro ps s hps hlen hsc hcben he hc hb
  obtain ⟨t, ht, ⟨-, items, htrace, hcounts⟩, hawaits⟩ := execList_phases ps hps ⟨hcben, he, hc, hb⟩
  refine ⟨t, items, ht, htrace, ?_, fun i hi => exec_end_sc hi hawaits.cben⟩
  rw [hcounts, hsc, List.map_map]
  refine List.map_congr_left fun k hk => toInt_count ?_
  have := List.mem_range.mp hk
  omega

end Sys2Proof.Machine
end

section
/-! The words of the command port (30_encoding.md R81), and the commands outside a burst (41_app_commands.md R152, R156 to R162). -/

namespace Sys2Proof.Machine

/-! ### The opcodes (R81) -/

section
variable {c : CommandWord}

theorem decodeCommand_enq (h : c.op = 0x1#4) : decodeCommand c = .enq c.d := by simp [decodeCommand, h]
theorem decodeCommand_enqn (h : c.op = 0x2#4) : decodeCommand c = .enqn c.d := by simp [decodeCommand, h]
theorem decodeCommand_deq (h : c.op = 0x3#4) : decodeCommand c = .deq := by simp [decodeCommand, h]
theorem decodeCommand_peek (h : c.op = 0x4#4) : decodeCommand c = .peek := by simp [decodeCommand, h]
theorem decodeCommand_avail (h : c.op = 0x5#4) : decodeCommand c = .avail := by simp [decodeCommand, h]
theorem decodeCommand_setcb (h : c.op = 0x6#4) : decodeCommand c = .setcb c.a := by simp [decodeCommand, h]
theorem decodeCommand_setie (h : c.op = 0x7#4) : decodeCommand c = .setie c.d[0] := by simp [decodeCommand, h]
theorem decodeCommand_beat (h : c.op = 0xF#4) : decodeCommand c = .beat c.d := by simp [decodeCommand, h]
theorem decodeCommand_reserved0 (h : c.op = 0x0#4) : decodeCommand c = .reserved0 := by simp [decodeCommand, h]
theorem decodeCommand_reserved9 (h : c.op = 0x9#4) : decodeCommand c = .reserved9 := by simp [decodeCommand, h]
theorem decodeCommand_reservedA (h : c.op = 0xA#4) : decodeCommand c = .reservedA := by simp [decodeCommand, h]
theorem decodeCommand_reservedB (h : c.op = 0xB#4) : decodeCommand c = .reservedB := by simp [decodeCommand, h]
theorem decodeCommand_reservedC (h : c.op = 0xC#4) : decodeCommand c = .reservedC := by simp [decodeCommand, h]
theorem decodeCommand_reservedD (h : c.op = 0xD#4) : decodeCommand c = .reservedD := by simp [decodeCommand, h]
theorem decodeCommand_reservedE (h : c.op = 0xE#4) : decodeCommand c = .reservedE := by simp [decodeCommand, h]

/-- Bit 0 of the word is bit 0 of its D field (R80). -/
theorem commandWord_d_bit_zero (w : CommandWord) : w.d[0] = w[0] := by simp [CommandWord.d]

/-- Only the last opcode is a beat. -/
theorem op_eq_of_decodeCommand_eq_beat {b : Byte} (h : decodeCommand c = .beat b) : c.op = 0xF#4 := by
  unfold decodeCommand at h
  split at h
  case h_16 =>
    have hlt : c.op.toNat < 16 := c.op.isLt
    refine BitVec.eq_of_toNat_eq (?_ : c.op.toNat = 15)
    grind
  all_goals cases h

end

/-! ### The buffer's commands -/

/-- Settles O32: a write where there is room, and a refusal where there is none. -/
theorem enqAppendsOneByte : Obligations.EnqAppendsOneByte := by
  refine ⟨fun c h => decodeCommand_enq h, fun b s hb => ⟨fun hlt => ?_, fun hC => ?_⟩⟩
  · refine ⟨s.buf.write s.txLen.toNat b, ?_, index_succ_toNat s.txLen hlt s.C_le, fun a => ?_⟩
    · rw [exec_enq b s hb, if_pos hlt]
    · exact Memory.read_write s.buf s.txLen.toNat a b
  · rw [exec_enq b s hb, if_neg (Nat.not_lt.mpr hC)]

section
variable (s : State) (hb : s.burst = none)
include hb

/-- With an unread byte `DEQ` consumes it (R156). -/
theorem exec_deq_byte {b : Byte} (hlt : s.rxIdx.toNat < s.rxLen.toNat) (hread : bufRead s s.rxIdx.toNat = some b) :
    exec .deq s = .next { s with rxIdx := s.rxIdx + 1, trace := s.trace ++ [.response (.byte true b)] } := by
  rw [exec_deq s hb, if_pos hlt, hread]

/-- With an unread byte `PEEK` shows it (R157). -/
theorem exec_peek_byte {b : Byte} (hlt : s.rxIdx.toNat < s.rxLen.toNat) (hread : bufRead s s.rxIdx.toNat = some b) :
    exec .peek s = .next { s with trace := s.trace ++ [.response (.byte true b)] } := by
  rw [exec_peek s hb, if_pos hlt, hread]

/-- `PEEK` changes nothing that the next `PEEK` reads (R59). -/
theorem execList_peek_peek {b : Byte} (hlt : s.rxIdx.toNat < s.rxLen.toNat)
    (hread : bufRead s s.rxIdx.toNat = some b) : execList [.peek, .peek] s = .next { s with
      trace := s.trace ++ [.response (.byte true b), .response (.byte true b)] } := by
  rw [execList_cons (exec_peek_byte s hb hlt hread), execList_cons (exec_peek_byte _ ?_ ?_ ?_), execList_nil,
    List.append_assoc, List.singleton_append]
  · exact hb
  · exact hlt
  · exact hread

theorem exec_peek_empty (h : s.rxLen.toNat ≤ s.rxIdx.toNat) :
    exec .peek s = .next { s with trace := s.trace ++ [.response (.byte false 0)] } := by
  rw [exec_peek s hb, if_neg (Nat.not_lt.mpr h)]

theorem exec_avail :
    exec .avail s = .next { s with trace := s.trace ++ [.response (.avail (unreadCount s.rxLen s.rxIdx))] } :=
  command_closed (fun s => .next (respond (.avail (unreadCount s.rxLen s.rxIdx)) s)) s hb

end

theorem exec_setie (e : Bool) (s : State) (hb : s.burst = none) :
    exec (.setie e) s = .next { s with ie := e, trace := s.trace ++ [.response .ack] } :=
  command_closed (fun s => .next (respond .ack { s with ie := e })) s hb

/-- Settles O39: a read in range consumes the byte, and a cursor at or past the length reports empty. -/
theorem deqReturnsAndConsumes : Obligations.DeqReturnsAndConsumes := by
  refine ⟨fun c h => decodeCommand_deq h, fun s hb => ⟨fun hlt hC => ?_, exec_deq_empty s hb⟩⟩
  obtain ⟨b, hread, hwritten⟩ := bufRead_some s hC
  exact ⟨b, hread, hwritten, exec_deq_byte s hb hlt hread⟩

/-- Settles O40: a read in range leaves the cursor, so that a second one reads the same byte. -/
theorem peekReturnsAndKeeps : Obligations.PeekReturnsAndKeeps := by
  refine ⟨fun c h => decodeCommand_peek h, fun s hb => ⟨fun hlt hC => ?_, exec_peek_empty s hb⟩⟩
  obtain ⟨b, hread, hwritten⟩ := bufRead_some s hC
  exact ⟨b, hread, hwritten, exec_peek_byte s hb hlt hread, execList_peek_peek s hb hlt hread⟩

/-- Nine bits hold every difference of two bytes (R158). -/
theorem unreadCount_toInt (rxLen rxIdx : Index) :
    (unreadCount rxLen rxIdx).toInt = (rxLen.toNat : Int) - (rxIdx.toNat : Int) := by
  have hlen := rxLen.isLt
  have hidx := rxIdx.isLt
  rw [unreadCount, BitVec.toInt_ofInt]
  exact Int.bmod_eq_of_le (by omega) (by omega)

/-- Settles O41: the count sent is the exact difference, and both registers are bytes. -/
theorem availIsTheExactDifference : Obligations.AvailIsTheExactDifference := by
  refine ⟨fun c h => decodeCommand_avail h, fun s hb => ?_⟩
  have hdiff := unreadCount_toInt s.rxLen s.rxIdx
  have hlen := s.rxLen.isLt
  have hidx := s.rxIdx.isLt
  exact ⟨_, exec_avail s hb, hdiff, by omega, by omega⟩

/-! ### Control and illegal words -/

/-- Settles O42: the two decodings, and one field written by each. -/
theorem setcbAndSetieWriteTheirBits : Obligations.SetcbAndSetieWriteTheirBits := by
  refine ⟨fun c h => decodeCommand_setcb h, fun u h => ?_, fun m e s hb => ⟨exec_setcb m s hb, exec_setie e s hb⟩⟩
  rw [decodeCommand_setie h, commandWord_d_bit_zero]

theorem exec_beat_stray (b : Byte) (s : State) (hb : s.burst = none) :
    exec (.beat b) s = .next { s with trace := s.trace ++ [.response .ill] } := by
  simp [exec, execBeat, hb, respond, emit]

/-- Settles O37: the decoding, and a beat with no burst to keep it. -/
theorem strayBeatIsIllegal : Obligations.StrayBeatIsIllegal := ⟨fun _ h => decodeCommand_beat h, exec_beat_stray⟩

section
variable {i : Instr} (hi : i = .reserved0 ∨ i = .reserved9 ∨ i = .reservedA ∨ i = .reservedB ∨ i = .reservedC ∨
  i = .reservedD ∨ i = .reservedE)
include hi

theorem exec_reserved (s : State) : exec i s = illegalCommand s := by
  rcases hi with rfl | rfl | rfl | rfl | rfl | rfl | rfl <;> rfl

theorem exec_reserved_closed (s : State) (hb : s.burst = none) :
    exec i s = .next { s with trace := s.trace ++ [.response .ill] } :=
  (exec_reserved hi s).trans (command_closed _ s hb)

theorem exec_reserved_open (s : State) {b : Burst} (hb : s.burst = some b) :
    exec i s = .next { s with burst := none, trace := s.trace ++ [.response .ill] } :=
  (exec_reserved hi s).trans (command_open _ s hb)

end

/-- Settles O38: a reserved word is an illegal command, behind the guard that closes a burst. -/
theorem reservedOpcodesAreIllegal : Obligations.ReservedOpcodesAreIllegal := by
  refine ⟨fun c => ⟨fun h => decodeCommand_reserved0 h, fun h => decodeCommand_reserved9 h,
    fun h => decodeCommand_reservedA h, fun h => decodeCommand_reservedB h, fun h => decodeCommand_reservedC h,
    fun h => decodeCommand_reservedD h, fun h => decodeCommand_reservedE h⟩,
    fun i s hi => ⟨exec_reserved_closed hi s, fun hb => ?_⟩⟩
  obtain ⟨b, hb⟩ := Option.ne_none_iff_exists'.mp hb
  exact exec_reserved_open hi s hb

end Sys2Proof.Machine
end

section
/-! The burst (41_app_commands.md R153 to R155): its header, its beats, its one write, and what aborts it. -/

namespace Sys2Proof.Machine

/-! ### The header and the beats -/

theorem exec_enqn_zero (s : State) (hb : s.burst = none) :
    exec (.enqn 0) s = .next { s with trace := s.trace ++ [.response (.count 0)] } := by
  simp [exec, execEnqn, command_closed _ s hb, enqnExec_eq, stageable, Memory.writeAll, hb]

theorem exec_enqn_opens {n : Byte} (hn : n ≠ 0) (s : State) (hb : s.burst = none) :
    exec (.enqn n) s = .next { s with burst := some ⟨n, []⟩ } := by
  rw [exec, execEnqn, command_closed _ s hb, if_neg hn]

theorem exec_beat_keeps (b : Byte) {n : Byte} {bytes : List Byte} (s : State) (hb : s.burst = some ⟨n, bytes⟩)
    (hlen : bytes.length + 1 ≠ n.toNat) : exec (.beat b) s = .next { s with burst := some ⟨n, bytes ++ [b]⟩ } := by
  simp [exec, execBeat, hb, hlen]

theorem exec_beat_last (b : Byte) {n : Byte} {bytes : List Byte} (s : State) (hb : s.burst = some ⟨n, bytes⟩)
    (hlen : bytes.length + 1 = n.toNat) : exec (.beat b) s = .next (enqnExec n (bytes ++ [b]) s) := by
  simp [exec, execBeat, hb, hlen]

/-- Any command but a beat closes an open burst and is discarded (R155). -/
theorem exec_aborts_burst {i : Instr} (s : State) {b : Burst} (hi : i.isEvent = false) (hbeat : ∀ x, i ≠ .beat x)
    (hb : s.burst = some b) : exec i s = .next { s with burst := none, trace := s.trace ++ [.response .ill] } := by
  cases i
  case evBerr | evColl | evAddr | evAddrCont | evStop | evTx | evRx | evNone => simp [Instr.isEvent] at hi
  case beat x => exact absurd rfl (hbeat x)
  all_goals
    simp only [exec, execEnq, execEnqn, execDeq, execPeek, execAvail, execSetcb, execSetie, execCbret, execReserved0,
      execReserved9, execReservedA, execReservedB, execReservedC, execReservedD, execReservedE, illegalCommand,
      command_open _ s hb]

/-- Settles O33: the header outside and inside a burst, and a beat that the burst keeps. -/
theorem enqnHeaderAndBeatsKeepTheBurst : Obligations.EnqnHeaderAndBeatsKeepTheBurst := by
  refine ⟨fun c h => decodeCommand_enqn h, fun n s hb => ⟨?_, fun hn => exec_enqn_opens hn s hb⟩, fun n s b hb => ?_,
    fun b n bytes s hb hlen => exec_beat_keeps b s hb hlen⟩
  · rintro rfl
    exact exec_enqn_zero s hb
  · exact exec_aborts_burst s rfl (fun _ => Instr.noConfusion) hb

/-- Settles O36: a word with another opcode decodes to a command that is no beat. -/
theorem otherCommandsAbortTheBurst : Obligations.OtherCommandsAbortTheBurst := by
  refine ⟨fun c s b hop hb => ?_, fun i s b hi hbeat hb => exec_aborts_burst s hi hbeat hb⟩
  exact exec_aborts_burst s (decodeCommand_isEvent c) (fun _ h => hop (op_eq_of_decodeCommand_eq_beat h)) hb

/-! ### The write -/

/-- The executed burst writes its first bytes, as many as fit, from `txLen` on, and nothing else (R153). -/
theorem read_enqnExec {n : Byte} {bytes : List Byte} (s : State) (hlen : bytes.length = n.toNat) (a : Nat) :
    (enqnExec n bytes s).buf.read a =
      if s.txLen.toNat ≤ a ∧ a < s.txLen.toNat + stageable n s then bytes[a - s.txLen.toNat]? else s.buf.read a := by
  have htaken : (bytes.take (stageable n s)).length = stageable n s := by
    rw [List.length_take, hlen]
    exact Nat.min_eq_left (Nat.min_le_left _ _)
  simp only [enqnExec_eq, Memory.read_writeAll, htaken]
  split_ifs with hin
  · exact List.getElem?_take_of_lt (by omega)
  · rfl

/-- Settles O34: the last beat executes the burst. -/
theorem lastBeatWritesTheBurst : Obligations.LastBeatWritesTheBurst := by
  refine ⟨exec_enqn_zero, fun b n bytes s k hb hlen hk => ?_⟩
  obtain rfl : k = stageable n s := hk
  have hcount : stageable n s ≤ 255 := (Nat.min_le_left _ _).trans (Nat.le_of_lt_succ n.isLt)
  refine ⟨_, exec_beat_last b s hb hlen, txLen_add_stageable n s, index_ofNat_toNat hcount, fun a => ?_⟩
  exact read_enqnExec s (by rw [List.length_append, List.length_singleton, hlen]) a

/-- The beats that complete a burst execute it: each is kept until the last (R154). -/
theorem execList_beats (bs : List Byte) {n : Byte} {bytes : List Byte} (s : State) (hb : s.burst = some ⟨n, bytes⟩)
    (hne : bs ≠ []) (hlen : bytes.length + bs.length = n.toNat) :
    execList (bs.map Instr.beat) s = .next (enqnExec n (bytes ++ bs) s) := by
  induction bs generalizing bytes s with
  | nil => exact absurd rfl hne
  | cons b bs ih =>
    rw [List.length_cons] at hlen
    rw [List.map_cons]
    rcases eq_or_ne bs [] with rfl | hbs
    · exact execList_cons (exec_beat_last b s hb hlen)
    · have hmore := List.length_pos_of_ne_nil hbs
      rw [execList_cons (exec_beat_keeps b s hb (by omega)), ih _ rfl hbs, List.append_assoc]
      · rfl
      · rw [List.length_append, List.length_singleton]
        omega

/-- Settles O35: the header opens a burst that its beats complete. -/
theorem burstIsOneTruncatingEnqueue : Obligations.BurstIsOneTruncatingEnqueue := by
  intro bs s k hb hpos hle hk
  have hn : (BitVec.ofNat 8 bs.length).toNat = bs.length := index_ofNat_toNat hle
  have hzero : BitVec.ofNat 8 bs.length ≠ 0 := fun h => by
    have := congrArg BitVec.toNat h
    simp at this
    omega
  obtain rfl : k = stageable (BitVec.ofNat 8 bs.length) s := by rw [hk, stageable, hn]
  refine ⟨(enqnExec (BitVec.ofNat 8 bs.length) bs s).buf, ?_, fun a => read_enqnExec s hn.symm a⟩
  rw [execList_cons (exec_enqn_opens hzero s hb),
    execList_beats bs _ rfl (List.ne_nil_of_length_pos hpos) (by rw [hn, List.length_nil, Nat.zero_add])]
  simp [enqnExec_eq, stageable, State.C, hb]

end Sys2Proof.Machine
end

section
/-! The return from a callback (41_app_commands.md R166 to R171), and what the other commands leave to the invocations (R164, R165). -/

namespace Sys2Proof.Machine

/-! ### `CBRET` outside `W_ADDR` -/

section
variable (acc : Bool) (s : State) (hb : s.burst = none)
include hb

theorem exec_cbret_ready (hc : s.cst = .ready) :
    exec (.cbret acc) s = .next { s with trace := s.trace ++ [.response .ill] } := by
  simp [exec, execCbret, command_closed _ s hb, hc, respond, emit]

theorem exec_cbret_wStop (hc : s.cst = .wStop) : exec (.cbret acc) s = .next { s with
    sc := noStartYet, extp := false, xst := .idle, cst := .ready, trace := s.trace ++ [.response .ack, .irqDone] } := by
  simp [exec, execCbret, command_closed _ s hb, hc, finishStop_eq, respond, emit]

end

/-- Settles O19: the resumed segment is `FinishRead()`. -/
theorem returnFromReqFinishesTheRead : Obligations.ReturnFromReqFinishesTheRead := by
  intro acc s hb hc
  exact exec_cbret_wReq acc s hc hb

/-- Settles O20: the resumed segment is `FinishStop()` in both waits. -/
theorem returnFromRxOrStopFinishesTheStop : Obligations.ReturnFromRxOrStopFinishesTheStop := by
  rintro acc s hb (hc | hc)
  · exact exec_cbret_wRx acc s hc hb
  · exact exec_cbret_wStop acc s hb hc

/-- Settles O22: in `READY` no segment is resumed. -/
theorem cbretWithNoCallbackIsIllegal : Obligations.CbretWithNoCallbackIsIllegal := exec_cbret_ready

/-- Accepting leaves a direction in `xst` (R110, R111). -/
theorem acceptedAddress_xst (dir : Bool) (s : State) : (acceptedAddress dir s).xst ≠ .idle := by
  unfold acceptedAddress
  split_ifs <;> exact Xst.noConfusion

/-- Settles O21: wait by wait the next state does not name the bit; in `W_ADDR` rejecting leaves `xst` IDLE, and accepting does
not. -/
theorem acceptBitIsReadOnlyInWAddr : Obligations.AcceptBitIsReadOnlyInWAddr := by
  refine ⟨fun s hc => ?_, fun s hc hb heq => ?_⟩
  · rcases Option.eq_none_or_eq_some s.burst with hb | ⟨b, hb⟩
    · cases hcst : s.cst
      case ready => rw [exec_cbret_ready _ s hb hcst, exec_cbret_ready _ s hb hcst]
      case wAddr => exact absurd hcst hc
      case wReq => rw [exec_cbret_wReq _ s hcst hb, exec_cbret_wReq _ s hcst hb]
      case wRx => rw [exec_cbret_wRx _ s hcst hb, exec_cbret_wRx _ s hcst hb]
      case wStop => rw [exec_cbret_wStop _ s hb hcst, exec_cbret_wStop _ s hb hcst]
    · rw [exec_cbret_open _ hb, exec_cbret_open _ hb]
  · rw [exec_cbret_accept s hb hc, exec_cbret_reject s hb hc] at heq
    exact acceptedAddress_xst _ _ (congrArg State.xst (Host.Outcome.next.inj heq))

/-! ### The address machine -/

/-- `s` with the address machine of `u`. -/
def State.withAddressMachine (s u : State) : State :=
  { s with sc := u.sc, addr := u.addr, extp := u.extp, xst := u.xst, evdir := u.evdir }

/-- The same answer with the address machine of `u` in its next state. -/
def answerWithAddressMachine (u : State) : Host.Outcome State Fault Refusal → Host.Outcome State Fault Refusal
  | .next t => .next (t.withAddressMachine u)
  | .fault r => .fault r
  | .refused r => .refused r

/-- The command gives the same answer whatever the address machine holds, and leaves it as it is (R164). -/
def IgnoresAddressMachine (i : Instr) (s : State) : Prop :=
  ∀ u, exec i (s.withAddressMachine u) = answerWithAddressMachine u (exec i s)

/-- In particular it answers what it answers for the address machine of `s` itself. -/
theorem IgnoresAddressMachine.next {i : Instr} {s t : State} (hi : IgnoresAddressMachine i s) (h : exec i s = .next t) :
    t = t.withAddressMachine s ∧ ∀ u, exec i (s.withAddressMachine u) = .next (t.withAddressMachine u) := by
  have hnext (u : State) : exec i (s.withAddressMachine u) = .next (t.withAddressMachine u) := by rw [hi u, h]; rfl
  exact ⟨Host.Outcome.next.inj (h.symm.trans (hnext s)), hnext⟩

/-- An update of the state that does not name the address machine. -/
theorem ignoresAddressMachine_of_update {i : Instr} {f : State → State} (hf : ∀ s, s.burst = none → exec i s = .next (f s))
    (s : State) (hb : s.burst = none)
    (hcomm : ∀ u, f (s.withAddressMachine u) = (f s).withAddressMachine u) : IgnoresAddressMachine i s := by
  intro u
  rw [hf s hb, hf (s.withAddressMachine u) hb, hcomm u]
  rfl

theorem exec_beat_ignoresAddressMachine (b : Byte) (s : State) : IgnoresAddressMachine (.beat b) s := by
  rcases Option.eq_none_or_eq_some s.burst with hb | ⟨⟨n, bytes⟩, hb⟩
  · exact ignoresAddressMachine_of_update (exec_beat_stray b) s hb fun _ => rfl
  · intro u
    by_cases hlen : bytes.length + 1 = n.toNat
    · rw [exec_beat_last b s hb hlen, exec_beat_last b (s.withAddressMachine u) hb hlen]
      rfl
    · rw [exec_beat_keeps b s hb hlen, exec_beat_keeps b (s.withAddressMachine u) hb hlen]
      rfl

theorem exec_enqn_ignoresAddressMachine (n : Byte) (s : State) (hb : s.burst = none) :
    IgnoresAddressMachine (.enqn n) s := by
  rcases eq_or_ne n 0 with rfl | hn
  · exact ignoresAddressMachine_of_update exec_enqn_zero s hb fun _ => rfl
  · exact ignoresAddressMachine_of_update (exec_enqn_opens hn) s hb fun _ => rfl

theorem exec_enq_ignoresAddressMachine (b : Byte) (s : State) (hb : s.burst = none) :
    IgnoresAddressMachine (.enq b) s := by
  refine ignoresAddressMachine_of_update (exec_enq b) s hb fun u => ?_
  rw [apply_ite (State.withAddressMachine · u)]
  rfl

/-- A read of the buffer asks the capacity, the written bytes and the draw (R11). -/
theorem exec_deq_peek_ignoresAddressMachine {i : Instr} (hi : i = .deq ∨ i = .peek) (s : State) (hb : s.burst = none) :
    IgnoresAddressMachine i s := by
  intro u
  have hread : bufRead (s.withAddressMachine u) (s.withAddressMachine u).rxIdx.toNat = bufRead s s.rxIdx.toNat := rfl
  rcases hi with rfl | rfl
  · rw [exec_deq s hb, exec_deq (s.withAddressMachine u) hb, hread, apply_ite (answerWithAddressMachine u)]
    cases bufRead s s.rxIdx.toNat <;> rfl
  · rw [exec_peek s hb, exec_peek (s.withAddressMachine u) hb, hread, apply_ite (answerWithAddressMachine u)]
    cases bufRead s s.rxIdx.toNat <;> rfl

/-- Inside a burst the guard answers for every command but `BEAT` (R155). -/
theorem exec_command_ignoresAddressMachine {i : Instr} (s : State) (hi : i.isEvent = false)
    (hc : ∀ acc, i ≠ .cbret acc) : IgnoresAddressMachine i s := by
  by_cases hbeat : ∃ b, i = .beat b
  · obtain ⟨b, rfl⟩ := hbeat
    exact exec_beat_ignoresAddressMachine b s
  rcases Option.eq_none_or_eq_some s.burst with hb | ⟨b, hb⟩
  · cases i
    case evBerr | evColl | evAddr | evAddrCont | evStop | evTx | evRx | evNone => simp [Instr.isEvent] at hi
    case cbret acc => exact absurd rfl (hc acc)
    case beat b => exact absurd ⟨b, rfl⟩ hbeat
    case enq b => exact exec_enq_ignoresAddressMachine b s hb
    case enqn n => exact exec_enqn_ignoresAddressMachine n s hb
    case deq => exact exec_deq_peek_ignoresAddressMachine (.inl rfl) s hb
    case peek => exact exec_deq_peek_ignoresAddressMachine (.inr rfl) s hb
    case avail => exact ignoresAddressMachine_of_update exec_avail s hb fun _ => rfl
    case setcb m => exact ignoresAddressMachine_of_update (exec_setcb m) s hb fun _ => rfl
    case setie e => exact ignoresAddressMachine_of_update (exec_setie e) s hb fun _ => rfl
    all_goals exact ignoresAddressMachine_of_update (exec_reserved_closed (by simp)) s hb fun _ => rfl
  · intro u
    rw [exec_aborts_burst s hi (not_exists.mp hbeat) hb,
      exec_aborts_burst (s.withAddressMachine u) hi (not_exists.mp hbeat) hb]
    rfl

/-- Settles O50: a command that ignores the address machine leaves the one it finds. -/
theorem commandsDoNotTouchTheAddressMachine : Obligations.CommandsDoNotTouchTheAddressMachine := by
  intro i s t hi hc h
  obtain ⟨hself, hnext⟩ := (exec_command_ignoresAddressMachine s hi hc).next h
  refine ⟨?_, fun sc addr extp xst evdir => ?_⟩
  · rw [hself]
    exact ⟨rfl, rfl, rfl, rfl, rfl⟩
  · exact hnext { s with sc := sc, addr := addr, extp := extp, xst := xst, evdir := evdir }

/-! ### The bus -/

theorem busTrace_eq_of_append {s t : State} {items : List Output} (ht : t.trace = s.trace ++ items)
    (hitems : items.filter Output.isBus = []) : busTrace t = busTrace s := by
  rw [busTrace, ht, List.filter_append, hitems, List.append_nil, busTrace]

theorem exec_command_busTrace {i : Instr} {s t : State} (hi : i.isEvent = false) (hc : ∀ acc, i ≠ .cbret acc)
    (h : exec i s = .next t) : busTrace t = busTrace s := by
  rcases command_cases i s t hi hc h with ⟨r, rfl⟩ | ⟨b, -, -, rfl⟩ | ⟨n, -, -, rfl⟩ | ⟨n, bytes, b, -, -, rfl⟩ |
    ⟨n, bytes, -, rfl⟩ | ⟨b, -, -, -, -, rfl⟩ | ⟨m, -, rfl⟩ | ⟨e, -, rfl⟩
  -- opening a burst and keeping a beat of it emit nothing (R154)
  case inr.inr.inl | inr.inr.inr.inl => rfl
  all_goals exact busTrace_eq_of_append rfl rfl

/-- Where no invocation is resumed, a `CBRET` responds and does nothing else (R155, R166). -/
theorem exec_cbret_busTrace {acc : Bool} {s t : State} (hs : s.cst = .ready ∨ s.burst ≠ none)
    (h : exec (.cbret acc) s = .next t) : busTrace t = busTrace s := by
  rcases Option.eq_none_or_eq_some s.burst with hb | ⟨b, hb⟩
  · rw [exec_cbret_ready acc s hb (hs.resolve_right (absurd hb))] at h
    obtain rfl := Host.Outcome.next.inj h
    exact busTrace_eq_of_append rfl rfl
  · rw [exec_cbret_open acc hb] at h
    obtain rfl := Host.Outcome.next.inj h
    exact busTrace_eq_of_append rfl rfl

/-- Settles O51: a response is no item of the bus, and without a resumed segment nothing else is emitted. -/
theorem commandsEmitNothingToTheBus : Obligations.CommandsEmitNothingToTheBus := by
  intro i s t hi hs h
  by_cases hc : ∃ acc, i = .cbret acc
  · obtain ⟨acc, rfl⟩ := hc
    exact exec_cbret_busTrace (hs.resolve_left fun hne => hne acc rfl) h
  · exact exec_command_busTrace hi (not_exists.mp hc) h

end Sys2Proof.Machine
end

section
/-! Exceptions (60_exceptions.md): from a state that meets the invariant no step stops the block (R200, R222), and only a `CBRET` or the
reset input ends a wait (R207, R212, R213). -/

namespace Sys2Proof.Machine

/-! ### No step stops the block -/

/-- Only a read outside the buffer stops an instruction, and the lengths, at most `C`, exclude it (R27). -/
theorem exec_next_of_inv (i : Instr) {s : State} (h : s.Inv) : ∃ t, exec i s = .next t := by
  obtain ⟨-, -, hnext⟩ := onlyAReadOutsideTheBufferStops
  have htxLen := h.buffer.txLen_le
  have hrxLen := h.buffer.rxLen_le
  have htx : s.txLen.toNat ≤ s.txIdx.toNat ∨ s.txIdx.toNat < s.C := by omega
  have hrx : s.rxLen.toNat ≤ s.rxIdx.toNat ∨ s.rxIdx.toNat < s.C := by omega
  exact hnext i s (.inr htx) (.inr (.inr hrx))

/-- A step runs an instruction in a state that meets the invariant, or is an arrival. -/
theorem step_next_of_inv {s : State} (h : s.Inv) : ∃ t, step s = .next t := by
  rcases step_cases s with ⟨-, w, ws, -, hs⟩ | ⟨-, c, cs, -, hs⟩ | ⟨-, -, hs⟩ <;> rw [hs]
  · exact exec_next_of_inv _ (h.with_ports ws s.cmdIn s.timeline)
  · exact exec_next_of_inv _ (h.with_ports s.evIn cs s.timeline)
  · exact ⟨arrive s, rfl⟩

/-- Settles O48: a step answers a next state, and every step keeps the invariant. -/
theorem noStepStopsTheBlock : Obligations.NoStepStopsTheBlock := by
  intro s h
  obtain ⟨t, ht⟩ := step_next_of_inv h
  exact ⟨t, ht, step_inv h ht⟩

/-! ### What ends a wait -/

/-- The opcode of a word that decodes to a `CBRET` (R81). -/
theorem op_eq_of_decodeCommand_eq_cbret {c : CommandWord} {acc : Bool} (h : decodeCommand c = .cbret acc) : c.op = 0x8#4 := by
  unfold decodeCommand at h
  split at h
  case h_9 hop => exact BitVec.eq_of_toNat_eq hop
  all_goals cases h

theorem exec_command_cst {i : Instr} {s t : State} (hi : i.isEvent = false) (hc : ∀ acc, i ≠ .cbret acc)
    (h : exec i s = .next t) : t.cst = s.cst := by
  rcases command_cases i s t hi hc h with ⟨r, rfl⟩ | ⟨b, -, -, rfl⟩ | ⟨n, -, -, rfl⟩ | ⟨n, bytes, b, -, -, rfl⟩ |
    ⟨n, bytes, -, rfl⟩ | ⟨b, -, -, -, -, rfl⟩ | ⟨m, -, rfl⟩ | ⟨e, -, rfl⟩ <;> rfl

/-- A `CBRET` that resumes no invocation leaves the controller state alone (R155, R166). -/
theorem exec_cbret_cst {acc : Bool} {s t : State} (hs : s.cst = .ready ∨ s.burst ≠ none)
    (h : exec (.cbret acc) s = .next t) : t.cst = s.cst := by
  rcases Option.eq_none_or_eq_some s.burst with hb | ⟨b, hb⟩
  · rw [exec_cbret_ready acc s hb (hs.resolve_right (absurd hb))] at h
    obtain rfl := Host.Outcome.next.inj h
    rfl
  · rw [exec_cbret_open acc hb] at h
    obtain rfl := Host.Outcome.next.inj h
    rfl

/-- The only command that changes the controller state is a `CBRET` that resumes an invocation (R212). -/
theorem cbret_of_cst_ne {i : Instr} {s t : State} (hi : i.isEvent = false) (h : exec i s = .next t) (hne : t.cst ≠ s.cst) :
    s.cst ≠ .ready ∧ s.burst = none ∧ ∃ acc, i = .cbret acc := by
  by_cases hc : ∃ acc, i = .cbret acc
  · obtain ⟨acc, rfl⟩ := hc
    have hresumes : ¬(s.cst = .ready ∨ s.burst ≠ none) := fun hs => hne (exec_cbret_cst hs h)
    obtain ⟨hready, hburst⟩ := not_or.mp hresumes
    exact ⟨hready, not_not.mp hburst, acc, rfl⟩
  · exact absurd (exec_command_cst hi (not_exists.mp hc) h) hne

/-- An arrival changes the controller state by the reset input alone. -/
theorem reset_of_arrive_cst_ne {s : State} (hne : (arrive s).cst ≠ s.cst) :
    ∃ rest, s.timeline = .reset :: rest ∧ (arrive s).cst = .ready := by
  rcases arrive_cases s with ⟨rest, htimeline, hs⟩ | ⟨evs, cmds, rest, hs⟩ <;> rw [hs] at hne ⊢
  · exact ⟨rest, htimeline, rfl⟩
  · exact absurd rfl hne

/-- Settles O55: in a wait no event is accepted, a command that ends it is a `CBRET`, and an arrival that ends it is the reset input. -/
theorem onlyCbretOrResetEndsAWait : Obligations.OnlyCbretOrResetEndsAWait := by
  refine ⟨fun s t hwait ht hne => ?_, fun i s t hi hready h => ?_⟩
  · rcases step_cases s with ⟨ha, -⟩ | ⟨-, c, cs, hcmd, hs⟩ | ⟨-, hcmd, hs⟩
    · obtain ⟨hready, -, -⟩ := (acceptsEvent_iff s).mp ha
      exact absurd hready hwait
    · obtain ⟨-, hburst, acc, hcbret⟩ := cbret_of_cst_ne (decodeCommand_isEvent c) (hs.symm.trans ht) hne
      exact .inl ⟨c, cs, hcmd, hburst, op_eq_of_decodeCommand_eq_cbret hcbret⟩
    · obtain rfl := Host.Outcome.next.inj (hs.symm.trans ht)
      obtain ⟨rest, htimeline, hready⟩ := reset_of_arrive_cst_ne hne
      exact .inr ⟨rest, hcmd, htimeline, hready⟩
  · by_contra hne
    obtain ⟨hwait, -, -⟩ := cbret_of_cst_ne hi h (hready ▸ hne)
    exact hwait hready

end Sys2Proof.Machine
end

section
/-! The reset input (70_reset_and_hazards.md R230 to R232), and what accepting an address leaves staged or unread (R239, R240). -/

namespace Sys2Proof.Machine

/-! ### The reset input -/

/-- With nothing to take, the reset input acts as soon as it is presented (R230, log entries 5 and 6). -/
theorem step_of_reset {s : State} {rest : List PortWord} (ha : acceptsEvent s = false ∨ s.evIn = []) (hcmd : s.cmdIn = [])
    (htimeline : s.timeline = .reset :: rest) : step s = .next (resetInput { s with timeline := rest }) := by
  rw [step_of_nothing ha hcmd, arrive, htimeline]

/-- No callback is left to return from (R231). -/
theorem exec_cbret_resetInput (acc : Bool) (s : State) : exec (.cbret acc) (resetInput s) =
    .next { resetInput s with trace := s.trace ++ [.response .ill] } :=
  exec_cbret_ready acc _ (resetInput_burst s) (resetInput_cst s)

/-- Settles O45: the step is the reset input, whose next state is the reset table with the ports and the trace kept. -/
theorem resetInputAbandonsEverything : Obligations.ResetInputAbandonsEverything := by
  intro s rest ha hcmd htimeline
  have hstep := step_of_reset ((acceptsEvent_eq_false_or_iff s).mpr ha) hcmd htimeline
  exact ⟨_, hstep, rfl, rfl, rfl, rfl, rfl, rfl, rfl, rfl, rfl, rfl, rfl, rfl, rfl, rfl, rfl, rfl, rfl, rfl,
    Memory.read_nil, fun acc => exec_cbret_resetInput acc _⟩

/-! ### Accepting an address inside the `ADDR` callback -/

/-- Without the `REQ` callback the accepted read is finished at once, and both transmit registers are 0 (R111, R112). -/
theorem exec_cbret_accept_read (s : State) (hb : s.burst = none) (hc : s.cst = .wAddr) (hdir : s.evdir = true)
    (hreq : s.cben[2] = false) : exec (.cbret true) s = .next { s with
      xst := .tx, txLen := 0, txIdx := 0, cst := .ready
      trace := s.trace ++ [.response .ack, .directive .ackContinue, .irqDone] } := by
  rw [exec_cbret_accept s hb hc, hdir, acceptedAddress_true, acceptRead_eq, if_neg (ne_true_of_eq_false hreq),
    List.append_assoc, List.singleton_append]

/-- An accepted write empties the receive region and keeps its cursor (R29, R110). -/
theorem exec_cbret_accept_write (s : State) (hb : s.burst = none) (hc : s.cst = .wAddr) (hdir : s.evdir = false) :
    exec (.cbret true) s = .next { s with
      xst := .rx, rxLen := 0, cst := .ready
      trace := s.trace ++ [.response .ack, .directive .ackContinue, .irqDone] } := by
  rw [exec_cbret_accept s hb hc, hdir, acceptedAddress_false, acceptWrite_eq, List.append_assoc, List.singleton_append]

/-- Settles O24: accepting the read sets `txLen` to 0, so that TXDATA is an overrun. -/
theorem preStagedBytesAreDiscarded : Obligations.PreStagedBytesAreDiscarded := by
  intro s hb hc hdir hreq
  rw [execList_cons (exec_cbret_accept_read s hb hc hdir hreq), execList_cons (exec_evTx_overrun _ le_rfl), execList_nil]
  exact ⟨_, rfl, rfl, rfl, rfl, List.append_assoc ..⟩

/-- Settles O25: with `rxLen` 0 the unread count is `-rxIdx`, and the cursor, at or past the length, makes `DEQ` report empty. -/
theorem acceptedWriteLeavesAStaleCursor : Obligations.AcceptedWriteLeavesAStaleCursor := by
  intro s hb hc hdir
  have hcount : (unreadCount 0 s.rxIdx).toInt = -(s.rxIdx.toNat : Int) :=
    (unreadCount_toInt 0 s.rxIdx).trans (Int.zero_sub _)
  rw [execList_cons (exec_cbret_accept_write s hb hc hdir), execList_cons (exec_avail _ ?_),
    execList_cons (exec_deq_empty _ ?_ ?_), execList_nil]
  · refine ⟨_, _, rfl, hcount, rfl, rfl, rfl, ?_⟩
    rw [List.append_assoc, List.append_assoc]
    rfl
  · exact hb
  · exact Nat.zero_le _
  · exact hb

end Sys2Proof.Machine
end
